-- ==== Sys2Proof/Word.lean ====
section
/-! DEFINITION. The word types of the numericode CORE: the 32-bit register word and the 8-bit symbol. -/

namespace Sys2Proof

/-- A register of the host window, a command word, a code (00_scope.md R3, 10_state.md §2): 32 bits, unsigned. -/
abbrev Word := BitVec 32

/-- A symbol (00_scope.md R4): one byte, any of its 256 values. -/
abbrev Byte := BitVec 8

/-- The largest code, 2^32 - 1 (20_memory.md R60). -/
def maxCode : Nat := 2 ^ 32 - 1

end Sys2Proof
end

