-- ==== Sys2Proof/Syntax.lean ====
section
/-! DEFINITION. The six commands of the NC32 command set (30_encoding.md R81), one constructor per row of
spec/opcode_table.json. -/

namespace Sys2Proof

/-- A command. `n` is the length operand N (R82), a count; `zf` is the zero-fill operand ZF (R83). Every other operand
is implicit in a register (R84). DESIGN CHOICE, log entry 10: N is a number, bounded in WellFormed.lean. -/
inductive Instr where
  /-- NOP (41_codec_config.md R100). -/
  | nop
  /-- CONFIG n (41_codec_config.md R101). -/
  | config (n : Nat)
  /-- LOADDEF (41_codec_config.md R104). -/
  | loaddef
  /-- MAXCHARS (41_codec_config.md R106). -/
  | maxchars
  /-- ENCODE n (42_encode.md R130). -/
  | encode (n : Nat)
  /-- DECODE (`zf` false) and DECODE.Z (`zf` true) (43_decode.md R150). -/
  | decode (zf : Bool)
deriving DecidableEq, Repr

end Sys2Proof
end

