-- ==== Sys2Proof/WellFormed.lean ====
section
/-! DEFINITION. Which commands can be written: the length operand fits its 7-bit field. -/

namespace Sys2Proof

/-- The length operand fits bits 14:8 of the command word (30_encoding.md R82, R90: "n in 0..127; other values do not
assemble"). Nothing else of a command can be ill-formed: a length outside 10 to 64 is a legal operand of CONFIG. -/
def lengthFits (n : Nat) : Bool := n < 128

/-- A command that assembles (30_encoding.md R90). -/
def Instr.wellFormed : Instr → Bool
  | .nop => true
  | .config n => lengthFits n
  | .loaddef => true
  | .maxchars => true
  | .encode n => lengthFits n
  | .decode _ => true

end Sys2Proof
end

