-- ==== Sys2Proof/Decode.lean ====
section
/-! DEFINITION. The command decoder (total on every 32-bit word, an illegal word refused by name), the encoder, the table
of legal words and the assembler's spelling of a command. -/

namespace Sys2Proof

/-- Why a word is no command (30_encoding.md R86). -/
inductive Illegal where
  /-- A 1 in bits 31:15 or 7:5. -/
  | reservedBits
  /-- OP is 0x6 to 0xF. -/
  | reservedOp
  /-- N is not 0 and OP is not CONFIG or ENCODE. -/
  | strayLength
  /-- ZF is 1 and OP is not DECODE. -/
  | strayZeroFill
deriving DecidableEq, Repr

/-- What a word decodes to. -/
inductive Decoded where
  /-- A legal word: its command. -/
  | instr (i : Instr)
  /-- An illegal word: why. -/
  | illegal (why : Illegal)
deriving DecidableEq, Repr

/-- OP, the command selector: bits 3:0 (30_encoding.md R80). -/
def opField (w : Word) : BitVec 4 := w.extractLsb' 0 4

/-- ZF, the zero-fill flag: bit 4 (30_encoding.md R80, R83). -/
def zfField (w : Word) : Bool := w.getLsbD 4

/-- The reserved bits 7:5 (30_encoding.md R80). -/
def lowReserved (w : Word) : BitVec 3 := w.extractLsb' 5 3

/-- N, the length operand: bits 14:8 (30_encoding.md R80, R82). -/
def nField (w : Word) : BitVec 7 := w.extractLsb' 8 7

/-- The reserved bits 31:15 (30_encoding.md R80). -/
def highReserved (w : Word) : BitVec 17 := w.extractLsb' 15 17

/-- A command with no operand field of its own: ZF and N must be 0 (30_encoding.md R85, R86). -/
def decodePlain (w : Word) (i : Instr) : Decoded :=
  if zfField w then .illegal .strayZeroFill
  else if nField w ≠ 0 then .illegal .strayLength
  else .instr i

/-- A command with the length operand: ZF must be 0 (30_encoding.md R85, R86). -/
def decodeWithLength (w : Word) (i : Nat → Instr) : Decoded :=
  if zfField w then .illegal .strayZeroFill else .instr (i (nField w).toNat)

/-- The decoder of 30_encoding.md R86. -/
def decode (w : Word) : Decoded :=
  if highReserved w ≠ 0 ∨ lowReserved w ≠ 0 then .illegal .reservedBits
  else if opField w = 0x0 then decodePlain w .nop
  else if opField w = 0x1 then decodeWithLength w .config
  else if opField w = 0x2 then decodePlain w .loaddef
  else if opField w = 0x3 then decodePlain w .maxchars
  else if opField w = 0x4 then decodeWithLength w .encode
  else if opField w = 0x5 then
    if nField w ≠ 0 then .illegal .strayLength else .instr (.decode (zfField w))
  else .illegal .reservedOp

/-- The word a command assembles to (30_encoding.md R90). -/
def encode : Instr → Word
  | .nop => 0x00000000
  | .config n => 0x00000001 ||| (BitVec.ofNat 32 n <<< 8)
  | .loaddef => 0x00000002
  | .maxchars => 0x00000003
  | .encode n => 0x00000004 ||| (BitVec.ofNat 32 n <<< 8)
  | .decode false => 0x00000005
  | .decode true => 0x00000015

/-- One row of the table of legal words (30_encoding.md R85). -/
structure OpcodeRow where
  pattern : Word
  mask : Word
deriving DecidableEq, Repr

/-- A word matches a row: (w AND mask) = match (30_encoding.md R85). -/
def OpcodeRow.accepts (r : OpcodeRow) (w : Word) : Bool := w &&& r.mask == r.pattern

/-- The table of 30_encoding.md R85, in its order. -/
def opcodeRows : List OpcodeRow :=
  [ ⟨0x00000000, 0xFFFFFFFF⟩,   -- NOP
    ⟨0x00000001, 0xFFFF80FF⟩,   -- CONFIG
    ⟨0x00000002, 0xFFFFFFFF⟩,   -- LOADDEF
    ⟨0x00000003, 0xFFFFFFFF⟩,   -- MAXCHARS
    ⟨0x00000004, 0xFFFF80FF⟩,   -- ENCODE
    ⟨0x00000005, 0xFFFFFFEF⟩ ]  -- DECODE

/-- How the assembler spells a command (30_encoding.md R90). -/
def spell : Instr → String
  | .nop => "NOP"
  | .config n => "CONFIG " ++ toString n
  | .loaddef => "LOADDEF"
  | .maxchars => "MAXCHARS"
  | .encode n => "ENCODE " ++ toString n
  | .decode false => "DECODE"
  | .decode true => "DECODE.Z"

/-- The command word that `nbits` bits `w` of spec/opcode_table.json stand for. A command is one 32-bit word
(30_encoding.md R88); bits above `nbits` are 0. -/
def tableWord (nbits w : Nat) : Word := BitVec.ofNat 32 (w % 2 ^ nbits)

/-- The command the decoder reads from the table's bits `w`, none where it refuses. -/
def decodeTableWord (nbits w : Nat) : Option Instr :=
  match decode (tableWord nbits w) with
  | .instr i => some i
  | .illegal _ => none

end Sys2Proof
end

