-- ==== Sys2Proof/Config.lean ====
section
/-! DEFINITION. The open parameters of the spec and the values it leaves free. Each is an opaque constant: nothing can be
proved of its value, so a statement holds whatever it is. -/

namespace Sys2Proof.Config

/-- The open parameter `BASE` (20_memory.md R74, 92_eei_decisions.md D5), as the number of the 128-byte block that the
window fills in the host's address space: `BASE = 128 * baseBlock`, so that it is 128-byte aligned.
DESIGN CHOICE, log entry 8. -/
opaque baseBlock : Nat

/-- The open parameter `T_CMD` (70_reset_and_hazards.md R199, 93_implementation_defined.md I9, I12), less one: how many
steps pass between the acceptance of a command and the step of its commit. The argument is the count of draws made
before, so that each accepted command has a latency of its own; plus one, it is finite and at least 1. DESIGN CHOICE,
log entry 1. -/
opaque tCmdMinusOne : Nat → Nat

/-! What the engine's working registers hold after a reset is "don't-care" (70_reset_and_hazards.md R190,
93_implementation_defined.md I13): five free values, fresh at each reset cycle. Log entry 3. -/

/-- ACC after a reset cycle: free. -/
opaque resetAcc : Nat → Word
/-- REM after a reset cycle: free. -/
opaque resetRem : Nat → Word
/-- POS after a reset cycle: free. -/
opaque resetPos : Nat → BitVec 4
/-- OUT after a reset cycle: free. -/
opaque resetOut : Nat → Vector Byte 16
/-- OLEN after a reset cycle: free. -/
opaque resetOlen : Nat → BitVec 4

end Sys2Proof.Config
end

