-- ==== Sys2Proof/Machine/Window.lean ====
section
/-! DEFINITION. The host window: the registers at its 32 word offsets, and where the window lies in the host's address
space. -/

namespace Sys2Proof.Machine

/-- The word at one offset of the host window (10_state.md §2). -/
inductive Reg where
  /-- CMD, 0x00 (R34). -/
  | cmd
  /-- STATUS, 0x04 (R22 to R26, R43). -/
  | status
  /-- CODE_IN, 0x08 (R31). -/
  | codeIn
  /-- RESULT, 0x0C (R32). -/
  | result
  /-- CSLEN, 0x10 (R30). -/
  | csLen
  /-- DSTLEN, 0x14 (R33). -/
  | dstLen
  /-- The reserved words at 0x18 and 0x1C (R35). -/
  | reserved (k : Fin 2)
  /-- SRC0..SRC3, 0x20 to 0x2C (R27). -/
  | src (w : Fin 4)
  /-- DST0..DST3, 0x30 to 0x3C (R28). -/
  | dst (w : Fin 4)
  /-- STAGE0..STAGE15, 0x40 to 0x7C (R29). -/
  | stage (w : Fin 16)
deriving DecidableEq, Repr

/-- The word index of a register, which is its byte offset divided by 4: the address lines A[6:2] of the host port
(10_state.md §2, 20_memory.md R70). -/
def regIndex : Reg → BitVec 5
  | .cmd => 0
  | .status => 1
  | .codeIn => 2
  | .result => 3
  | .csLen => 4
  | .dstLen => 5
  | .reserved k => BitVec.ofNat 5 (6 + k.val)
  | .src w => BitVec.ofNat 5 (8 + w.val)
  | .dst w => BitVec.ofNat 5 (12 + w.val)
  | .stage w => BitVec.ofNat 5 (16 + w.val)

/-- The byte offset of a register from BASE (10_state.md §2). -/
def regOffset (r : Reg) : Nat := 4 * (regIndex r).toNat

/-- The register that the address lines A[6:2] select (10_state.md R21, 20_memory.md R70). -/
def regAt (a : BitVec 5) : Reg :=
  if a = 0 then .cmd
  else if a = 1 then .status
  else if a = 2 then .codeIn
  else if a = 3 then .result
  else if a = 4 then .csLen
  else if a = 5 then .dstLen
  else if a.toNat < 8 then .reserved (Fin.ofNat 2 (a.toNat - 6))
  else if a.toNat < 12 then .src (Fin.ofNat 4 (a.toNat - 8))
  else if a.toNat < 16 then .dst (Fin.ofNat 4 (a.toNat - 12))
  else .stage (Fin.ofNat 16 (a.toNat - 16))

/-- A register the host may write (10_state.md R42): CMD, CODE_IN, SRC0..SRC3, STAGE0..STAGE15. -/
def Reg.writable : Reg → Bool
  | .cmd => true
  | .status => false
  | .codeIn => true
  | .result => false
  | .csLen => false
  | .dstLen => false
  | .reserved _ => false
  | .src _ => true
  | .dst _ => false
  | .stage _ => true

/-- BASE, the host address of the window (20_memory.md R74): any multiple of 128. -/
def windowBase : Nat := 128 * Config.baseBlock

/-- The host address of a register (20_memory.md R74). -/
def windowAddress (r : Reg) : Nat := windowBase + regOffset r

/-- What a word access at a host address selects (20_memory.md R70, R74): the word of the window there, or nothing of
this block. The port has no address bits 1:0, so an address that is no multiple of 4 names no access at all. DESIGN CHOICE,
log entry 8. -/
def windowSelect (address : Nat) : Option (BitVec 5) :=
  if windowBase ≤ address ∧ address ≤ windowBase + 0x7F ∧ address % 4 = 0 then
    some (BitVec.ofNat 5 ((address - windowBase) / 4))
  else none

end Sys2Proof.Machine
end

