-- ==== Sys2Proof/Machine/State.lean ====
section
/-! DEFINITION. The state of the machine: every register, buffer and latch of spec/10_state.md, the engine's working
registers, the host agent of spec/30_encoding.md R91, the samples of rst_n still to come, and the model's own two counters.
Plain data throughout. -/

namespace Sys2Proof.Machine

/-- The outcome codes of STATUS.ERR (10_state.md R24, 60_exceptions.md R170). Codes 6 and 7 are never produced and have
no constructor. -/
inductive Err where
  /-- 0 OK. -/
  | ok
  /-- 1 INVALID_CHARSET: the codec is inert. -/
  | invalidCharset
  /-- 2 LENGTH_EXCEEDED. -/
  | lengthExceeded
  /-- 3 INVALID_SYMBOL. -/
  | invalidSymbol
  /-- 4 ILLEGAL_CMD. -/
  | illegalCmd
  /-- 5 OVERFLOW: asserted by ENCODE, never reached (42_encode.md R135). -/
  | overflow
deriving DecidableEq, Repr

/-- The engine's working registers (10_state.md R39), never visible to the host. -/
structure Work where
  /-- ACC, the accumulator of ENCODE. -/
  acc : Word
  /-- REM, what DECODE still has to emit. -/
  rem : Word
  /-- POS, the digit position. -/
  pos : BitVec 4
  /-- OUT, DECODE's output under construction. -/
  out : Vector Byte 16
  /-- OLEN, how much of OUT is emitted. -/
  olen : BitVec 4
deriving DecidableEq, Repr

/-- A value of the host notation: a 32-bit immediate or a temporary (30_encoding.md R91). -/
inductive HostValue where
  | imm (v : Word)
  | tmp (k : Fin 8)
deriving DecidableEq, Repr

/-- A primitive operation of the host notation, its labels resolved to places (30_encoding.md R91). -/
inductive HostOp where
  /-- `WR REG, v`: one bus write. -/
  | wr (r : Reg) (v : HostValue)
  /-- `RD tk, REG`: one bus read. -/
  | rd (k : Fin 8) (r : Reg)
  /-- `AND tk, tj, v`: host-internal. -/
  | and (k j : Fin 8) (v : HostValue)
  /-- `BNZ tk, label`: host-internal; the target is a place in the program. -/
  | bnz (k : Fin 8) (target : Nat)
deriving DecidableEq, Repr

/-- The host agent (10_state.md R20, 30_encoding.md R91): its program, the place it has reached and t0..t7. It is
outside the block: no reset and no command changes it. -/
structure HostAgent where
  program : List HostOp
  place : Nat
  temps : Vector Word 8
deriving DecidableEq, Repr

/-- The machine. -/
structure State where
  /-- STATUS.BUSY (10_state.md R22). -/
  busy : Bool
  /-- STATUS.WIB (10_state.md R23). -/
  wib : Bool
  /-- STATUS.ERR (10_state.md R24). -/
  err : Err
  /-- STATUS.ERRIDX (10_state.md R25). -/
  errIdx : BitVec 4
  /-- CODE_IN (10_state.md R31). -/
  codeIn : Word
  /-- RESULT (10_state.md R32). -/
  result : Word
  /-- CSLEN.LEN (10_state.md R30). -/
  csLen : BitVec 7
  /-- DSTLEN.LEN (10_state.md R33). -/
  dstLen : BitVec 4
  /-- SRC[0..15] (10_state.md R27). -/
  src : Vector Byte 16
  /-- DST[0..15] (10_state.md R28). -/
  dst : Vector Byte 16
  /-- STAGE[0..63] (10_state.md R29). -/
  stage : Vector Byte 64
  /-- CS[0..63], the active character set (10_state.md R30). -/
  cs : Vector Byte 64
  /-- PEND, the accepted command word (10_state.md R37). -/
  pend : Word
  /-- ACC, REM, POS, OUT and OLEN (10_state.md R39). -/
  work : Work
  /-- The model's own: how many steps pass before the step that commits the outstanding command
  (70_reset_and_hazards.md R199). Log entry 1. -/
  wait : Nat
  /-- The model's own: how many free values have been drawn. Log entry 1. -/
  draws : Nat
  /-- The samples of rst_n at the coming steps, `false` for low; high once the list is used up
  (20_memory.md R70, 70_reset_and_hazards.md R190). Log entry 4. -/
  rstN : List Bool
  /-- The host agent (10_state.md R20). -/
  host : HostAgent
deriving DecidableEq, Repr

/-- Why the machine could stop with a fault: nothing does. "No access faults" (60_exceptions.md R177), an error is an
outcome code written at a commit (R170), and the block has no trap (R174, R175). DEDUCED, log entry 7. -/
inductive Fault where
deriving DecidableEq, Repr

/-- Why an instruction could be refused. -/
inductive Refusal where
  /-- An instruction that has no meaning yet: raised by an arm of `exec` only, and by none now. Safe. -/
  | notModelled (mnemonic : String)
deriving DecidableEq, Repr

/-- n bytes of 0x00. -/
def zeroBytes (n : Nat) : Vector Byte n := Vector.replicate n 0x00

/-- The machine right after reset: the values of 70_reset_and_hazards.md R190, rst_n released. The working registers are
don't-care there; the zeros here are a DESIGN CHOICE (log entry 3), as are a host with no program (log entry 2) and the
model's counters at 0 (log entry 1). -/
def State.reset : State where
  busy := false
  wib := false
  err := .ok
  errIdx := 0
  codeIn := 0
  result := 0
  csLen := 0
  dstLen := 0
  src := zeroBytes 16
  dst := zeroBytes 16
  stage := zeroBytes 64
  cs := zeroBytes 64
  pend := 0
  work := { acc := 0, rem := 0, pos := 0, out := zeroBytes 16, olen := 0 }
  wait := 0
  draws := 0
  rstN := []
  host := { program := [], place := 0, temps := Vector.replicate 8 0 }

end Sys2Proof.Machine
end

