-- ==== Sys2Proof/Machine/Flags.lean ====
section
/-! DEFINITION. STATUS: its outcome codes, its computed VALID flag and the word the host reads (10_state.md §2.1, §6). -/

namespace Sys2Proof.Machine

/-- The 3-bit code of an outcome (10_state.md R24, 60_exceptions.md R170). -/
def errCode : Err → BitVec 3
  | .ok => 0
  | .invalidCharset => 1
  | .lengthExceeded => 2
  | .invalidSymbol => 3
  | .illegalCmd => 4
  | .overflow => 5

/-- STATUS.VALID is not stored: it reads as CSLEN.LEN ≠ 0 (10_state.md R26). -/
def validFlag (s : State) : Bool := s.csLen ≠ 0

/-- The STATUS word: BUSY 0, VALID 1, WIB 2, ERR 6:4, ERRIDX 11:8; bits 3, 7 and 31:12 read 0 (10_state.md §2, R43). -/
def statusWord (s : State) : Word :=
  (0 : BitVec 20) ++ s.errIdx ++ (0 : BitVec 1) ++ errCode s.err ++ (0 : BitVec 1) ++ BitVec.ofBool s.wib ++
    BitVec.ofBool (validFlag s) ++ BitVec.ofBool s.busy

/-- The `busy` output of the block, equal to STATUS.BUSY (20_memory.md R70). -/
def busyOutput (s : State) : Bool := s.busy

end Sys2Proof.Machine
end

