-- ==== Sys2Proof/Machine/Rom.lean ====
section
/-! DEFINITION. The two ROMs of the engine: the power table (20_memory.md §5) and the default character set (§6).
Constant data: no field of State, not host-readable, untouched by reset and by every command (R63, R65). -/

namespace Sys2Proof.Machine

/-- The successive powers of `L` from `p` on, each kept only while it is at most 2^32 - 1 (20_memory.md R60). `k` bounds
how many. -/
def powersFrom (L : Nat) : Nat → Nat → List Nat
  | 0, _ => []
  | k + 1, p => if p ≤ maxCode then p :: powersFrom L k (p * L) else []

/-- The legal character-set lengths, 10 to 64 (41_codec_config.md R101, 20_memory.md R60). -/
def legalLength (L : Nat) : Bool := 10 ≤ L && L ≤ 64

/-- The table row of length `L`: its powers that are at most 2^32 - 1, from L^0 (20_memory.md R60). A row has at most 10
words (R61), since 10^10 exceeds 2^32 - 1. No other length has a row. -/
def powerRow (L : Nat) : List Nat := if legalLength L then powersFrom L 10 1 else []

/-- MAXC(L), MaxChars: the count of entries in the row, less one; 0 where there is no row (20_memory.md R62). -/
def maxC (L : Nat) : Nat := (powerRow L).length - 1

/-- The word of the power-table ROM at ROM address `a`: 55 rows of 10 words, row L at (L - 10) * 10, padded with 0
(20_memory.md R61). -/
def romWord (a : Nat) : Word := BitVec.ofNat 32 ((powerRow (a / 10 + 10)).getD (a % 10) 0)

/-- PWR(L, i), read from the ROM at its address (20_memory.md R60, R61). -/
def pwr (L i : Nat) : Word := romWord ((L - 10) * 10 + i)

/-- The length of the default character set (20_memory.md R64, 90_conflicts.md C1). -/
def defaultLength : Nat := 40

/-- The ten packed words of the default character-set ROM, DEFCS[4w] in bits 7:0 of word w (20_memory.md R65). -/
def defaultWords : List Word :=
  [ 0x43424120, 0x47464544, 0x4B4A4948, 0x4F4E4D4C, 0x53525150,
    0x57565554, 0x305A5958, 0x34333231, 0x38373635, 0x2F5F2D39 ]

/-- DEFCS[k]: byte k of the default character-set ROM, under the lane order of 20_memory.md R50 (R64, R65). -/
def defaultSymbol (k : Nat) : Byte := (defaultWords.getD (k / 4) 0).extractLsb' (8 * (k % 4)) 8

end Sys2Proof.Machine
end

