-- ==== Sys2Proof/Machine/Operands.lean ====
section
/-! DEFINITION. How operands are read: the byte lanes of the buffers, the character-set lookup, the numeric form of a
digit sequence and the digits of a code. A definition that fills a whole buffer is irreducible, so that comparing two states
never computes its 16 or 64 bytes; its bytes are in the `byteAt_` lemmas of Laws/Operands.lean. -/

namespace Sys2Proof.Machine

/-- The 32-bit word with b0 in bits 7:0 up to b3 in bits 31:24 (00_scope.md §5, 20_memory.md R50). -/
def word4 (b0 b1 b2 b3 : Byte) : Word := b3 ++ b2 ++ b1 ++ b0

/-- The byte in lane `j` of a word, bits 8j+7 down to 8j (20_memory.md R50). -/
def lane (v : Word) (j : Nat) : Byte := v.extractLsb' (8 * j) 8

/-- Byte `k` of a buffer. Past the buffer's end there is no byte; 0x00 stands there, and no command reads it
(10_state.md R27 to R30). DESIGN CHOICE, log entry 13. -/
def byteAt {n : Nat} (buf : Vector Byte n) (k : Nat) : Byte := buf[k]?.getD 0x00

/-- Register word `w` of a buffer: bytes 4w to 4w+3 in lanes 0 to 3 (20_memory.md R50). -/
def bufferWord {n : Nat} (buf : Vector Byte n) (w : Nat) : Word :=
  word4 (byteAt buf (4 * w)) (byteAt buf (4 * w + 1)) (byteAt buf (4 * w + 2)) (byteAt buf (4 * w + 3))

/-- The buffer with register word `w` set to `v`: all four bytes of it, and no other (20_memory.md R50, R53). -/
@[irreducible] def setBufferWord {n : Nat} (buf : Vector Byte n) (w : Nat) (v : Word) : Vector Byte n :=
  Vector.ofFn fun k => if k.val / 4 = w then lane v (k.val % 4) else buf[k]

/-- The four bytes of a code's persisted form, the least significant first (20_memory.md R51, 42_encode.md R136). -/
def persistedBytes (c : Word) : List Byte := [lane c 0, lane c 1, lane c 2, lane c 3]

/-- The first `L` bytes of `sym`, then 0x00: what a constructed character set holds (41_codec_config.md R101, R104). -/
@[irreducible] def characterSet (L : Nat) (sym : Nat → Byte) : Vector Byte 64 :=
  Vector.ofFn fun k => if k.val < L then sym k.val else 0x00

/-- LOOKUP(s): the lowest k < L with CS[k] = s, all 8 bits equal, or none (42_encode.md R132). -/
def lookup (cs : Vector Byte 64) (L : Nat) (sym : Byte) : Option Nat :=
  (List.range L).find? fun k => byteAt cs k == sym

/-- The numeric form of a digit sequence, the first digit least significant: the sum of d[i] * L^i (00_scope.md R5). -/
def numericForm (L : Nat) : List Nat → Nat
  | [] => 0
  | d :: ds => d + L * numericForm L ds

/-- What DECODE's digit loop leaves (43_decode.md R150): the symbols emitted, from position 0 on, and REM. -/
structure Emitted where
  symbols : List Byte
  rem : Nat
deriving DecidableEq, Repr

/-- DECODE's digit loop over the `k` positions still to come, with REM = `rem` (43_decode.md R150 to R153): while REM is
not 0 it emits the symbol of the digit REM mod L; then the zero symbol if `zf`; else it stops. -/
def emitDigits (L : Nat) (zf : Bool) (cs : Vector Byte 64) : Nat → Nat → Emitted
  | 0, rem => ⟨[], rem⟩
  | k + 1, rem =>
    if rem > 0 then
      let rest := emitDigits L zf cs k (rem / L)
      ⟨byteAt cs (rem % L) :: rest.symbols, rest.rem⟩
    else if zf then
      let rest := emitDigits L zf cs k rem
      ⟨byteAt cs 0 :: rest.symbols, rest.rem⟩
    else ⟨[], rem⟩

/-- What ENCODE's loop leaves (42_encode.md R130): ACC, the position reached, and OK or the error raised there. -/
structure Summed where
  acc : Word
  pos : Nat
  err : Err
deriving DecidableEq, Repr

/-- The exact product or sum of one ENCODE iteration exceeds 2^32 - 1 (42_encode.md R135). -/
def encodeOverflows (acc : Word) (d : Nat) (p : Word) : Bool :=
  maxCode < d * p.toNat || maxCode < acc.toNat + d * p.toNat

/-- ENCODE's loop over the `k` symbols still to come, at position `i` with ACC = `acc` (42_encode.md R130, R131): the
digit times PWR(L, i) is added, both mod 2^32. -/
def sumDigits (L : Nat) (cs : Vector Byte 64) (src : Vector Byte 16) : Nat → Nat → Word → Summed
  | 0, i, acc => ⟨acc, i, .ok⟩
  | k + 1, i, acc =>
    match lookup cs L (byteAt src i) with
    | none => ⟨acc, i, .invalidSymbol⟩
    | some d =>
      if encodeOverflows acc d (pwr L i) then ⟨acc, i, .overflow⟩
      else sumDigits L cs src k (i + 1) (acc + BitVec.ofNat 32 d * pwr L i)

end Sys2Proof.Machine
end

