-- ==== Sys2Proof/Machine/Ops.lean ====
section
/-! DEFINITION. The shared operations: the commit, with or without an error; what a commit may write; host reads and
writes; acceptance; reset; the passing of time. -/

namespace Sys2Proof.Machine

/-- L, the length of the active character set (10_state.md R30). Lengths that no command writes: DEDUCED, log entry 12. -/
def setLength (s : State) : Nat := s.csLen.toNat

/-- The end of every command (10_state.md R38, R41): the outcome is written and BUSY <- 0. -/
def commitWith (e : Err) (idx : Nat) (s : State) : State :=
  { s with err := e, errIdx := BitVec.ofNat 4 idx, busy := false }

/-- The commit of a command that succeeds: ERR <- 0, ERRIDX <- 0 (60_exceptions.md R170). -/
def succeed (s : State) : Host.Outcome State Fault Refusal := .next (commitWith .ok 0 s)

/-- `raise E(idx)`, taking an error: the one shared operation (00_scope.md §5, 60_exceptions.md R172). It writes ERR and
ERRIDX and ends the command. No state is saved, no mode changes and control goes nowhere; there is no return from it
(R174). -/
def raise (e : Err) (idx : Nat) (s : State) : Host.Outcome State Fault Refusal := .next (commitWith e idx s)

/-- CS and CSLEN replaced as a whole (41_codec_config.md R105). -/
def setCodec (cs : Vector Byte 64) (L : Nat) (s : State) : State := { s with cs := cs, csLen := BitVec.ofNat 7 L }

/-- RESULT <- v (10_state.md R32). -/
def setResult (v : Word) (s : State) : State := { s with result := v }

/-- ACC and POS as ENCODE's loop leaves them (10_state.md R39). Log entry 3. -/
def setSummed (r : Summed) (s : State) : State :=
  { s with work := { s.work with acc := r.acc, pos := BitVec.ofNat 4 r.pos } }

/-- The 16 bytes of OUT: the symbols emitted, then 0x00 (43_decode.md R150, R156). -/
@[irreducible] def outBytes (symbols : List Byte) : Vector Byte 16 := Vector.ofFn fun k => symbols.getD k.val 0x00

/-- REM, POS, OUT and OLEN as DECODE's loop leaves them (10_state.md R39). Log entry 3. -/
def setEmittedWork (r : Emitted) (s : State) : State :=
  { s with work := { s.work with
      rem := BitVec.ofNat 32 r.rem, pos := BitVec.ofNat 4 r.symbols.length,
      out := outBytes r.symbols, olen := BitVec.ofNat 4 r.symbols.length } }

/-- DST <- OUT and DSTLEN <- OLEN, all 16 bytes (43_decode.md R150, R156). -/
def setEmitted (r : Emitted) (s : State) : State :=
  { s with dst := outBytes r.symbols, dstLen := BitVec.ofNat 4 r.symbols.length }

/-- The word a host read of a register returns (20_memory.md R71, 10_state.md §2). -/
def readReg (r : Reg) (s : State) : Word :=
  match r with
  | .cmd => 0
  | .status => statusWord s
  | .codeIn => s.codeIn
  | .result => s.result
  | .csLen => s.csLen.setWidth 32
  | .dstLen => s.dstLen.setWidth 32
  | .reserved _ => 0
  | .src w => bufferWord s.src w.val
  | .dst w => bufferWord s.dst w.val
  | .stage w => bufferWord s.stage w.val

/-- Acceptance of a command word (10_state.md R37): PEND <- w, BUSY <- 1, WIB <- 0. The latency of the command is a free
value, drawn here (70_reset_and_hazards.md R199; log entry 1). -/
def accept (w : Word) (s : State) : State :=
  { s with pend := w, busy := true, wib := false, wait := Config.tCmdMinusOne s.draws, draws := s.draws + 1 }

/-- CODE_IN <- v (10_state.md R31). -/
def setCodeIn (v : Word) (s : State) : State := { s with codeIn := v }

/-- SRCw <- v (10_state.md R27). -/
def setSrcWord (w : Fin 4) (v : Word) (s : State) : State := { s with src := setBufferWord s.src w.val v }

/-- STAGEw <- v (10_state.md R29). -/
def setStageWord (w : Fin 16) (v : Word) (s : State) : State := { s with stage := setBufferWord s.stage w.val v }

/-- A write is dropped: WIB <- 1 (10_state.md R23). -/
def dropWrite (s : State) : State := { s with wib := true }

/-- What a write puts into an idle block's register (20_memory.md R72): CMD accepts a command; CODE_IN, SRC and STAGE
take all 32 bits; every other word ignores it. -/
def putReg (r : Reg) (v : Word) (s : State) : State :=
  match r with
  | .cmd => accept v s
  | .status => s
  | .codeIn => setCodeIn v s
  | .result => s
  | .csLen => s
  | .dstLen => s
  | .reserved _ => s
  | .src w => setSrcWord w v s
  | .dst _ => s
  | .stage w => setStageWord w v s

/-- A host write to a register (20_memory.md R72): while BUSY, a write to a writable register is dropped and sets WIB. -/
def writeReg (r : Reg) (v : Word) (s : State) : State :=
  if r.writable && s.busy then dropWrite s else putReg r v s

/-- `MemRead(a, 4)` on the address lines A[6:2] (20_memory.md R70, R71). -/
def memRead (a : BitVec 5) (s : State) : Word := readReg (regAt a) s

/-- `MemWrite(a, 4, v)` on the address lines A[6:2] (20_memory.md R70, R72). -/
def memWrite (a : BitVec 5) (v : Word) (s : State) : State := writeReg (regAt a) v s

/-- What one cycle of reset does to the block (70_reset_and_hazards.md R190, R191): every register and buffer takes its
reset value and an outstanding command is abandoned. The working registers are don't-care: free values (log entry 3). -/
def resetBlock (s : State) : State :=
  { s with
    busy := false, wib := false, err := .ok, errIdx := 0, codeIn := 0, result := 0, csLen := 0, dstLen := 0,
    src := zeroBytes 16, dst := zeroBytes 16, stage := zeroBytes 64, cs := zeroBytes 64, pend := 0, wait := 0,
    work := { acc := Config.resetAcc s.draws, rem := Config.resetRem s.draws, pos := Config.resetPos s.draws,
              out := Config.resetOut s.draws, olen := Config.resetOlen s.draws },
    draws := s.draws + 1 }

/-- The rst_n input is low at the coming clock edge (70_reset_and_hazards.md R190). -/
def resetIsLow (s : State) : Bool :=
  match s.rstN with
  | [] => false
  | high :: _ => !high

/-- The coming sample of rst_n is taken. -/
def takeSample (s : State) : State := { s with rstN := s.rstN.tail }

/-- One step of the outstanding command's latency passes (70_reset_and_hazards.md R199). -/
def tick (s : State) : State := { s with wait := if s.busy then s.wait - 1 else s.wait }

/-- The outstanding command commits at the coming step (10_state.md R38, 70_reset_and_hazards.md R199). -/
def commitIsDue (s : State) : Bool := s.busy && s.wait == 0

/-- The state with the word `w` as its outstanding command, due to commit at the very next step, and with rst_n high there:
what `State.withFetchWord` stores. -/
def placeCommand (w : Word) (s : State) : State :=
  { s with pend := w, busy := true, wait := 0, rstN := s.rstN.dropWhile (fun high => !high) }

end Sys2Proof.Machine
end

