-- ==== Sys2Proof/Machine/Construct.lean ====
section
/-! DEFINITION. The meanings of NOP, CONFIG, LOADDEF and MAXCHARS (41_codec_config.md), each run at its commit. -/

namespace Sys2Proof.Machine

/-- NOP (R100). -/
def execNop (s : State) : Host.Outcome State Fault Refusal := succeed s

/-- The codec that CONFIG n constructs from the staging buffer: n symbols for a legal n (R101), inert for any other
(R102). -/
def configured (n : Nat) (s : State) : State :=
  if legalLength n then setCodec (characterSet n (byteAt s.stage)) n s
  else setCodec (zeroBytes 64) 0 s

/-- CONFIG n (R101, R102): no error, whatever n is. -/
def execConfig (n : Nat) (s : State) : Host.Outcome State Fault Refusal := succeed (configured n s)

/-- LOADDEF (R104). -/
def execLoaddef (s : State) : Host.Outcome State Fault Refusal :=
  succeed (setCodec (characterSet defaultLength defaultSymbol) defaultLength s)

/-- MAXCHARS (R106, R107). -/
def execMaxchars (s : State) : Host.Outcome State Fault Refusal :=
  succeed (setResult (BitVec.ofNat 32 (maxC (setLength s))) s)

end Sys2Proof.Machine
end

