-- ==== Sys2Proof/Machine/DecodeCode.lean ====
section
/-! DEFINITION. The meaning of DECODE and DECODE.Z (43_decode.md), run at its commit. -/

namespace Sys2Proof.Machine

/-- The commit that DECODE's loop leads to (R150): DST and DSTLEN are written, and LENGTH_EXCEEDED is raised where digits
remain (R154). -/
def commitEmitted (r : Emitted) (s : State) : Host.Outcome State Fault Refusal :=
  if r.rem ≠ 0 then raise .lengthExceeded 0 (setEmitted r (setEmittedWork r s))
  else succeed (setEmitted r (setEmittedWork r s))

/-- DECODE (zf false) and DECODE.Z (zf true) (R150): an inert codec first (R155), then MAXC(L) digit positions. -/
def execDecode (zf : Bool) (s : State) : Host.Outcome State Fault Refusal :=
  if setLength s = 0 then raise .invalidCharset 0 s
  else commitEmitted (emitDigits (setLength s) zf s.cs (maxC (setLength s)) s.codeIn.toNat) s

end Sys2Proof.Machine
end

