-- ==== Sys2Proof/Machine/EncodeSymbols.lean ====
section
/-! DEFINITION. The meaning of ENCODE (42_encode.md), run at its commit. -/

namespace Sys2Proof.Machine

/-- The commit that ENCODE's loop leads to (R130): RESULT on success; INVALID_SYMBOL with the index of the symbol (R138);
OVERFLOW with index 0 (R135, never reached: DEDUCED, log entry 7). -/
def commitSummed (r : Summed) (s : State) : Host.Outcome State Fault Refusal :=
  match r.err with
  | .ok => succeed (setResult r.acc (setSummed r s))
  | .invalidSymbol => raise .invalidSymbol r.pos (setSummed r s)
  | e => raise e 0 (setSummed r s)

/-- ENCODE n (R130): an inert codec first (R134), then the length (R133), then the symbols. -/
def execEncode (n : Nat) (s : State) : Host.Outcome State Fault Refusal :=
  if setLength s = 0 then raise .invalidCharset 0 s
  else if maxC (setLength s) < n then raise .lengthExceeded 0 s
  else commitSummed (sumDigits (setLength s) s.cs s.src n 0 0) s

end Sys2Proof.Machine
end

