-- ==== Sys2Proof/Machine/Dispatch.lean ====
section
/-! DEFINITION. One arm per command: what its commit does. -/

namespace Sys2Proof.Machine

def exec (i : Instr) (s : State) : Host.Outcome State Fault Refusal :=
  match i with
  | .nop => Sys2Proof.Machine.execNop s
  | .config n => Sys2Proof.Machine.execConfig n s
  | .loaddef => Sys2Proof.Machine.execLoaddef s
  | .maxchars => Sys2Proof.Machine.execMaxchars s
  | .encode n => Sys2Proof.Machine.execEncode n s
  | .decode zf => Sys2Proof.Machine.execDecode zf s

end Sys2Proof.Machine
end

