-- ==== Sys2Proof/Machine/Engine.lean ====
section
/-! DEFINITION. The engine agent (10_state.md R20): the commit of the command in PEND. PEND keeps its word:
DEDUCED, log entry 15. -/

namespace Sys2Proof.Machine

/-- The commit of an illegal word (30_encoding.md R86): ILLEGAL_CMD and nothing else. -/
def commitIllegal (s : State) : Host.Outcome State Fault Refusal := raise .illegalCmd 0 s

/-- The commit of the outstanding command (10_state.md R38): PEND is decoded before anything else is examined
(60_exceptions.md R173). -/
def commitPending (s : State) : Host.Outcome State Fault Refusal :=
  match decode s.pend with
  | .instr i => exec i s
  | .illegal _ => commitIllegal s

end Sys2Proof.Machine
end

