-- ==== Sys2Proof/Machine/HostTurn.lean ====
section
/-! DEFINITION. The host agent (10_state.md R20): one operation of its program (30_encoding.md R91).
That it goes on while rst_n is low is a DESIGN CHOICE, log entry 14. -/

namespace Sys2Proof.Machine

/-- The value of an operand of the host notation (30_encoding.md R91). -/
def hostValue (v : HostValue) (h : HostAgent) : Word :=
  match v with
  | .imm x => x
  | .tmp k => h.temps[k]

/-- tk <- v, and on to the next operation. -/
def setTemp (k : Fin 8) (v : Word) (s : State) : State :=
  { s with host := { s.host with temps := s.host.temps.set k v, place := s.host.place + 1 } }

/-- On to place `p` of the host program. -/
def goTo (p : Nat) (s : State) : State := { s with host := { s.host with place := p } }

/-- The word a bus read returns: the register, or 0 while rst_n is low (20_memory.md R71, 70_reset_and_hazards.md R190). -/
def busRead (inReset : Bool) (r : Reg) (s : State) : Word := if inReset then 0 else memRead (regIndex r) s

/-- A bus write: the register is written, or nothing while rst_n is low (20_memory.md R72,
70_reset_and_hazards.md R190). -/
def busWrite (inReset : Bool) (r : Reg) (v : Word) (s : State) : State :=
  if inReset then s else memWrite (regIndex r) v s

/-- One operation of the host notation (30_encoding.md R91). -/
def hostOp (inReset : Bool) (op : HostOp) (s : State) : State :=
  match op with
  | .wr r v => goTo (s.host.place + 1) (busWrite inReset r (hostValue v s.host) s)
  | .rd k r => setTemp k (busRead inReset r s) s
  | .and k j v => setTemp k (s.host.temps[j] &&& hostValue v s.host) s
  | .bnz k target => goTo (if s.host.temps[k] ≠ 0 then target else s.host.place + 1) s

/-- The host's next operation, if its program is not over. -/
def nextHostOp (s : State) : Option HostOp := s.host.program[s.host.place]?

/-- The host performs its next operation; once its program is over it does nothing (70_reset_and_hazards.md R200). -/
def hostTurn (inReset : Bool) (s : State) : State :=
  match nextHostOp s with
  | none => s
  | some op => hostOp inReset op s

end Sys2Proof.Machine
end

