-- ==== Sys2Proof/Machine/Step.lean ====
section
/-! DEFINITION. One step of the machine: a cycle of reset, the commit of the outstanding command, or the host's turn
(10_state.md R20, 20_memory.md R75). -/

namespace Sys2Proof.Machine

/-- One step. rst_n low resets the block, and the host's operation finds it in reset (70_reset_and_hazards.md R190, R191).
Else, if the outstanding command's latency has passed, the engine commits it (10_state.md R38). Else the host performs its
next operation (20_memory.md R75). Between a command's acceptance and its commit any number of host operations may fall,
since the latency is a free value (70_reset_and_hazards.md R196). DESIGN CHOICE, log entries 1, 4 and 6. -/
def step (s : State) : Host.Outcome State Fault Refusal :=
  if resetIsLow s then .next (hostTurn true (resetBlock (takeSample s)))
  else if commitIsDue s then commitPending (takeSample s)
  else .next (hostTurn false (tick (takeSample s)))

/-- `s` with the table's word `w` as the outstanding command, committed by the very next step. DESIGN CHOICE, log entry
2. -/
def State.withFetchWord (s : State) (nbits w : Nat) : State := placeCommand (tableWord nbits w) s

end Sys2Proof.Machine
end

