-- ==== Sys2Proof/Machine/HostProgram.lean ====
section
/-! DEFINITION. The host notation's program text: labels and pseudo-instructions, and their expansion into the primitive
operations the host agent performs (30_encoding.md R91, R92). It is no part of the block. Labels as numbers, and what does
not assemble: DESIGN CHOICE, log entry 9. -/

namespace Sys2Proof.Machine

/-- A line of a host program (30_encoding.md R91, R92). A label is a number. -/
inductive HostLine where
  | wr (r : Reg) (v : HostValue)
  | rd (k : Fin 8) (r : Reg)
  | and (k j : Fin 8) (v : HostValue)
  | bnz (k : Fin 8) (label : Nat)
  | label (l : Nat)
  /-- `WAIT`. -/
  | wait
  /-- `RUN <command>`, with the command's word. -/
  | run (w : Word)
  /-- `WRSTR SRC, "s"`. -/
  | wrstrSrc (s : List Byte)
  /-- `WRSTR STAGE, "s"`. -/
  | wrstrStage (s : List Byte)
deriving DecidableEq, Repr

/-- The words of a byte string, bytes past its end written as 0x00 (30_encoding.md R92). -/
def stringWords (s : List Byte) : List Word :=
  (List.range ((s.length + 3) / 4)).map fun w =>
    word4 (s.getD (4 * w) 0) (s.getD (4 * w + 1) 0) (s.getD (4 * w + 2) 0) (s.getD (4 * w + 3) 0)

/-- The writes of consecutive words to the registers `reg w`, `reg (w+1)`, ...; none where there is no such register. -/
def wordWrites (reg : Nat → Option Reg) : Nat → List Word → Option (List HostOp)
  | _, [] => some []
  | w, v :: vs => do
    let r ← reg w
    let rest ← wordWrites reg (w + 1) vs
    return .wr r (.imm v) :: rest

/-- SRCw. -/
def srcReg (w : Nat) : Option Reg := if h : w < 4 then some (.src ⟨w, h⟩) else none

/-- STAGEw. -/
def stageReg (w : Nat) : Option Reg := if h : w < 16 then some (.stage ⟨w, h⟩) else none

/-- `WAIT` at place `p`: poll STATUS until BUSY = 0 (30_encoding.md R92). -/
def waitOps (p : Nat) : List HostOp := [.rd 7 .status, .and 7 7 (.imm 1), .bnz 7 p]

/-- How many primitive operations a line expands to (30_encoding.md R92). -/
def lineLength : HostLine → Nat
  | .wr _ _ => 1
  | .rd _ _ => 1
  | .and _ _ _ => 1
  | .bnz _ _ => 1
  | .label _ => 0
  | .wait => 3
  | .run _ => 4
  | .wrstrSrc s => (stringWords s).length
  | .wrstrStage s => (stringWords s).length

/-- The place that a label marks, for lines that begin at place `p`. -/
def labelPlace (l : Nat) : Nat → List HostLine → Option Nat
  | _, [] => none
  | p, .label m :: rest => if l = m then some p else labelPlace l p rest
  | p, x :: rest => labelPlace l (p + lineLength x) rest

/-- The operations of one line at place `p` (30_encoding.md R91, R92). -/
def expandLine (whole : List HostLine) (p : Nat) : HostLine → Option (List HostOp)
  | .wr r v => some [.wr r v]
  | .rd k r => some [.rd k r]
  | .and k j v => some [.and k j v]
  | .bnz k l => (labelPlace l 0 whole).map fun t => [.bnz k t]
  | .label _ => some []
  | .wait => some (waitOps p)
  | .run w => some (.wr .cmd (.imm w) :: waitOps (p + 1))
  | .wrstrSrc s => wordWrites srcReg 0 (stringWords s)
  | .wrstrStage s => wordWrites stageReg 0 (stringWords s)

/-- The operations of the lines that begin at place `p`. -/
def expandFrom (whole : List HostLine) : Nat → List HostLine → Option (List HostOp)
  | _, [] => some []
  | p, x :: rest => do
    let now ← expandLine whole p x
    let later ← expandFrom whole (p + lineLength x) rest
    return now ++ later

/-- A host program in primitive operations; none where it names a label or a register that is not there. -/
def assemble (lines : List HostLine) : Option (List HostOp) := expandFrom lines 0 lines

end Sys2Proof.Machine
end

