-- ==== Sys2Proof/Safety.lean ====
section
/-! DEFINITION. The terms in which claims speak of the machine: the invariant of every reachable state, valid and
distinct character sets, the strings in the buffers, the host's position. -/

namespace Sys2Proof.Machine

/-- What every step keeps, whatever the host does. The working registers are not in it: they are don't-care
(10_state.md R39). -/
structure State.Inv (s : State) : Prop where
  /-- CSLEN.LEN is 0 for an inert codec, otherwise 10 to 64 (10_state.md R30). -/
  length_legal : s.csLen = 0 ∨ legalLength (setLength s) = true
  /-- CS[k] for k ≥ L is 0x00 (10_state.md R30). -/
  set_padded : ∀ k, setLength s ≤ k → byteAt s.cs k = 0x00
  /-- DSTLEN.LEN is 0 to 9 (10_state.md R33). -/
  output_short : s.dstLen.toNat ≤ 9
  /-- DST[k] for k ≥ DSTLEN reads 0x00 (10_state.md R28). -/
  output_padded : ∀ k, s.dstLen.toNat ≤ k → byteAt s.dst k = 0x00
  /-- ERRIDX is 0 after every outcome but INVALID_SYMBOL (10_state.md R25). -/
  index_only_of_symbol : s.err ≠ .invalidSymbol → s.errIdx = 0
  /-- ERRIDX is 0 to 8 (10_state.md R25). -/
  index_short : s.errIdx.toNat ≤ 8
  /-- OVERFLOW is never the outcome (42_encode.md R135). -/
  never_overflow : s.err ≠ .overflow

/-- The codec is valid: its length is 10 to 64 (41_codec_config.md R101). -/
def ValidCodec (s : State) : Prop := legalLength (setLength s) = true

/-- The codec is inert (41_codec_config.md R102). -/
def InertCodec (s : State) : Prop := s.csLen = 0

/-- The first L symbols of the set are distinct (43_decode.md R157). -/
def DistinctSymbols (s : State) : Prop :=
  ∀ j k, j < setLength s → k < setLength s → byteAt s.cs j = byteAt s.cs k → j = k

/-- The zero symbol, CS[0] (00_scope.md R6). -/
def zeroSymbol (s : State) : Byte := byteAt s.cs 0

/-- The first `n` symbols of SRC, the string that ENCODE n encodes (10_state.md R27). -/
def srcString (n : Nat) (s : State) : List Byte := (List.range n).map (byteAt s.src)

/-- The string that the last DECODE emitted: DST[0] to DST[DSTLEN - 1] (10_state.md R28, R33). -/
def dstString (s : State) : List Byte := (List.range s.dstLen.toNat).map (byteAt s.dst)

/-- A symbol of the active character set (42_encode.md R132). -/
def InSet (s : State) (b : Byte) : Prop := ∃ k, k < setLength s ∧ byteAt s.cs k = b

/-- A string without its trailing run of the symbol `z` (43_decode.md R157). -/
def trimTrailing (z : Byte) (str : List Byte) : List Byte := (str.reverse.dropWhile (· == z)).reverse

/-- The coming step is the host's turn, out of reset: rst_n is high and no commit is due. -/
def HostsTurn (s : State) : Prop := resetIsLow s = false ∧ commitIsDue s = false

/-- The coming step commits the outstanding command. -/
def CommitsNext (s : State) : Prop := resetIsLow s = false ∧ commitIsDue s = true

/-- A run is over: the host has executed its last operation and BUSY = 0 (70_reset_and_hazards.md R200). -/
def RunIsOver (s : State) : Prop := nextHostOp s = none ∧ s.busy = false

/-- `t` is the state `k` steps after `s`. -/
def AfterSteps : Nat → State → State → Prop
  | 0, s, t => s = t
  | k + 1, s, t => ∃ u, step s = .next u ∧ AfterSteps k u t

/-- A word that matches no row of the table of legal words (30_encoding.md R86). -/
def NoCommand (w : Word) : Prop := ∀ r ∈ opcodeRows, r.accepts w = false

end Sys2Proof.Machine
end

