-- ==== Sys2Proof/Certificates/Slice0/Obligations.lean ====
section
/-! DEFINITION. The statements about the machine, each from the rules of spec/ its docstring names. `{ s with … }` on the
right of an equation is the frame: every field not named is unchanged. A field `work`, `wait` or `draws` under an
existential is the engine's hidden working registers (10_state.md R39) or the model's own counters. Where a frame leaves
`work` unchanged, or holds it fixed while a command is busy, that is the model's choice (log entry 3): the spec fixes no
moment at which the working registers change. -/

open Sys2Proof Sys2Proof.Machine

/-! ## The command words (30_encoding.md) -/

/-- Every operand of every command survives the encoding: R80 to R83, R85, R90. -/
def Obligations.DecodeReadsWhatEncodeWrites : Prop :=
  ∀ i : Instr, i.wellFormed = true → decode (encode i) = .instr i

/-- A legal word is the word of exactly one command, which assembles to it: R85, R90. -/
def Obligations.LegalWordHasOneSpelling : Prop :=
  ∀ (w : Word) (i : Instr), decode w = .instr i → i.wellFormed = true ∧ encode i = w

/-- R85: the rows of the table of legal words, the command and the free field of each, and that they do not overlap. -/
def Obligations.EachCommandHasItsRowOfTheTable : Prop :=
  ∀ w : Word,
    (decode w = .instr .nop ↔ w &&& 0xFFFFFFFF = 0x00000000) ∧
    (∀ n, decode w = .instr (.config n) ↔ w &&& 0xFFFF80FF = 0x00000001 ∧ n = (w.extractLsb' 8 7).toNat) ∧
    (decode w = .instr .loaddef ↔ w &&& 0xFFFFFFFF = 0x00000002) ∧
    (decode w = .instr .maxchars ↔ w &&& 0xFFFFFFFF = 0x00000003) ∧
    (∀ n, decode w = .instr (.encode n) ↔ w &&& 0xFFFF80FF = 0x00000004 ∧ n = (w.extractLsb' 8 7).toNat) ∧
    (∀ zf, decode w = .instr (.decode zf) ↔ w &&& 0xFFFFFFEF = 0x00000005 ∧ zf = w.getLsbD 4) ∧
    ((∃ i, decode w = .instr i) ↔ ∃ r ∈ opcodeRows, r.accepts w = true) ∧
    (∀ r ∈ opcodeRows, ∀ r' ∈ opcodeRows, r.accepts w = true → r'.accepts w = true → r = r')

/-- R90: the words it writes out, each with its command. -/
def Obligations.CommandWordsOfTheSpecDecode : Prop :=
  decode 0x00000000 = .instr .nop ∧ decode 0x00000002 = .instr .loaddef ∧ decode 0x00000003 = .instr .maxchars ∧
  decode 0x00000005 = .instr (.decode false) ∧ decode 0x00000015 = .instr (.decode true) ∧
  decode 0x00001001 = .instr (.config 16) ∧ decode 0x00002801 = .instr (.config 40) ∧
  decode 0x00000701 = .instr (.config 7) ∧ decode 0x00000204 = .instr (.encode 2) ∧
  decode 0x00000304 = .instr (.encode 3) ∧ decode 0x00000704 = .instr (.encode 7)

/-- R86: which words are illegal; each is accepted, and its commit writes ILLEGAL_CMD and changes nothing else. The last
clause is R86's `decode`, line by line. -/
def Obligations.IllegalWordsCommitIllegalCmd : Prop :=
  ∀ w : Word,
    (NoCommand w ↔ ∃ why, decode w = .illegal why) ∧
    (NoCommand w ↔
      6 ≤ (w.extractLsb' 0 4).toNat ∨ w.extractLsb' 15 17 ≠ 0 ∨ w.extractLsb' 5 3 ≠ 0 ∨
      (w.extractLsb' 8 7 ≠ 0 ∧ w.extractLsb' 0 4 ≠ 1 ∧ w.extractLsb' 0 4 ≠ 4) ∨
      (w.getLsbD 4 = true ∧ w.extractLsb' 0 4 ≠ 5)) ∧
    (NoCommand w → ∀ s : State, s.busy = false →
      (memWrite (regIndex .cmd) w s).busy = true ∧ (memWrite (regIndex .cmd) w s).pend = w) ∧
    (NoCommand w → ∀ s : State, CommitsNext s → s.pend = w →
      step s = .next { takeSample s with err := .illegalCmd, errIdx := 0, busy := false }) ∧
    (w.extractLsb' 15 17 = 0 → w.extractLsb' 5 3 = 0 →
      (w.extractLsb' 0 4 = 0 → w.getLsbD 4 = false → w.extractLsb' 8 7 = 0 → decode w = .instr .nop) ∧
      (w.extractLsb' 0 4 = 1 → w.getLsbD 4 = false → decode w = .instr (.config (w.extractLsb' 8 7).toNat)) ∧
      (w.extractLsb' 0 4 = 2 → w.getLsbD 4 = false → w.extractLsb' 8 7 = 0 → decode w = .instr .loaddef) ∧
      (w.extractLsb' 0 4 = 3 → w.getLsbD 4 = false → w.extractLsb' 8 7 = 0 → decode w = .instr .maxchars) ∧
      (w.extractLsb' 0 4 = 4 → w.getLsbD 4 = false → decode w = .instr (.encode (w.extractLsb' 8 7).toNat)) ∧
      (w.extractLsb' 0 4 = 5 → w.extractLsb' 8 7 = 0 → decode w = .instr (.decode (w.getLsbD 4))))

/-! ## The host window (10_state.md §2, 20_memory.md) -/

/-- R21, with the register map of 10_state.md §2: each of the 32 word offsets names one register or reserved word, and
none is named twice. -/
def Obligations.EachOffsetNamesOneRegister : Prop :=
  (∀ r : Reg, regAt (regIndex r) = r) ∧ (∀ a : BitVec 5, regIndex (regAt a) = a) ∧
  regOffset .cmd = 0x00 ∧ regOffset .status = 0x04 ∧ regOffset .codeIn = 0x08 ∧ regOffset .result = 0x0C ∧
  regOffset .csLen = 0x10 ∧ regOffset .dstLen = 0x14 ∧ (∀ k, regOffset (.reserved k) = 0x18 + 4 * k.val) ∧
  (∀ w, regOffset (.src w) = 0x20 + 4 * w.val) ∧ (∀ w, regOffset (.dst w) = 0x30 + 4 * w.val) ∧
  (∀ w, regOffset (.stage w) = 0x40 + 4 * w.val)

/-- R70, R74: the window is the 128 bytes from BASE, which is a multiple of 128; each register's address there selects
that register, and no other address selects anything. That a host address is a byte address, of which the port sees bits
6:2, is the model's reading (log entry 8). -/
def Obligations.WindowIsTheAlignedBlockAtBase : Prop :=
  128 ∣ windowBase ∧
  (∀ r : Reg, windowBase ≤ windowAddress r ∧ windowAddress r ≤ windowBase + 0x7F ∧
    windowSelect (windowAddress r) = some (regIndex r)) ∧
  (∀ (address : Nat) (a : BitVec 5), windowSelect address = some a → address = windowAddress (regAt a))

/-- R72: what a host write does at every word of the window. The latency drawn at acceptance is the model's own. -/
def Obligations.WritesObeyTheWindowRule : Prop :=
  ∀ (s : State) (v : Word),
    (s.busy = false → ∃ n d, memWrite (regIndex .cmd) v s =
      { s with pend := v, busy := true, wib := false, wait := n, draws := d }) ∧
    (s.busy = false → memWrite (regIndex .codeIn) v s = { s with codeIn := v }) ∧
    (s.busy = false → ∀ w : Fin 4, ∃ buf, memWrite (regIndex (.src w)) v s = { s with src := buf } ∧
      ∀ k, byteAt buf k = if k / 4 = w.val then v.extractLsb' (8 * (k % 4)) 8 else byteAt s.src k) ∧
    (s.busy = false → ∀ w : Fin 16, ∃ buf, memWrite (regIndex (.stage w)) v s = { s with stage := buf } ∧
      ∀ k, byteAt buf k = if k / 4 = w.val then v.extractLsb' (8 * (k % 4)) 8 else byteAt s.stage k) ∧
    (s.busy = true → ∀ r : Reg, (r = .cmd ∨ r = .codeIn ∨ (∃ w, r = .src w) ∨ ∃ w, r = .stage w) →
      memWrite (regIndex r) v s = { s with wib := true }) ∧
    (∀ r : Reg, (r = .status ∨ r = .result ∨ r = .csLen ∨ r = .dstLen ∨ (∃ w, r = .dst w) ∨ ∃ k, r = .reserved k) →
      memWrite (regIndex r) v s = s)

/-- R37: acceptance. Every word is accepted; PEND, BUSY and WIB are written and no other register; PEND is not readable and
resets to 0; an accepted illegal word fails at its commit with ILLEGAL_CMD. -/
def Obligations.AcceptanceLatchesTheWord : Prop :=
  State.reset.pend = 0 ∧
  (∀ (s : State) (w : Word) (r : Reg), memRead (regIndex r) { s with pend := w } = memRead (regIndex r) s) ∧
  ∀ (s : State) (w : Word), s.busy = false → ∃ n d,
    memWrite (regIndex .cmd) w s = { s with pend := w, busy := true, wib := false, wait := n, draws := d } ∧
    (NoCommand w → commitPending { s with pend := w, busy := true, wib := false, wait := n, draws := d } =
      .next { s with pend := w, busy := false, wib := false, wait := n, draws := d, err := .illegalCmd, errIdx := 0 })

/-- R23: what sets WIB, what leaves it alone, and that only acceptance and reset clear it. -/
def Obligations.WibIsStickyAndMarksDroppedWrites : Prop :=
  State.reset.wib = false ∧
  ∀ s : State,
    (∀ (r : Reg) (v : Word), s.busy = true → r.writable = true → memWrite (regIndex r) v s = { s with wib := true }) ∧
    (∀ (r : Reg) (v : Word), r.writable = false → memWrite (regIndex r) v s = s) ∧
    (∀ v : Word, s.busy = false → (memWrite (regIndex .cmd) v s).wib = false) ∧
    ∀ t : State, step s = .next t →
      (resetIsLow s = true → t.wib = false) ∧
      (s.wib = true → t.wib = false →
        resetIsLow s = true ∨
        (s.busy = false ∧ t.busy = true ∧ HostsTurn s ∧ ∃ v, nextHostOp s = some (.wr .cmd v))) ∧
      (s.wib = false → t.wib = true →
        s.busy = true ∧ HostsTurn s ∧ ∃ r v, nextHostOp s = some (.wr r v) ∧ r.writable = true)

/-- R43, with the fields of R22 to R26: the number of each outcome (R24, R170), where each field of STATUS stands, that the
codes 6 and 7 are never read, that the other bits read 0, and that the whole register ignores writes. -/
def Obligations.StatusHasItsFieldsAndZeros : Prop :=
  (errCode .ok = 0 ∧ errCode .invalidCharset = 1 ∧ errCode .lengthExceeded = 2 ∧ errCode .invalidSymbol = 3 ∧
    errCode .illegalCmd = 4 ∧ errCode .overflow = 5) ∧
  ∀ s : State,
    (memRead (regIndex .status) s).getLsbD 0 = s.busy ∧
    (memRead (regIndex .status) s).getLsbD 1 = decide (s.csLen ≠ 0) ∧
    (memRead (regIndex .status) s).getLsbD 2 = s.wib ∧
    (memRead (regIndex .status) s).getLsbD 3 = false ∧
    (memRead (regIndex .status) s).extractLsb' 4 3 = errCode s.err ∧
    ((memRead (regIndex .status) s).extractLsb' 4 3).toNat ≤ 5 ∧
    (memRead (regIndex .status) s).getLsbD 7 = false ∧
    (memRead (regIndex .status) s).extractLsb' 8 4 = s.errIdx ∧
    (memRead (regIndex .status) s).extractLsb' 12 20 = 0 ∧
    ∀ v : Word, memWrite (regIndex .status) v s = s

/-- R26: VALID is computed, is 1 exactly when the codec is not inert, and that is exactly when MaxChars is not 0. -/
def Obligations.ValidTellsAnInertCodec : Prop :=
  (memRead (regIndex .status) State.reset).getLsbD 1 = false ∧
  ∀ s : State,
    (memRead (regIndex .status) s).getLsbD 1 = decide (s.csLen ≠ 0) ∧
    ((memRead (regIndex .status) s).getLsbD 1 = true ↔ ¬ InertCodec s) ∧
    (s.Inv → ((memRead (regIndex .status) s).getLsbD 1 = true ↔ maxC (setLength s) ≠ 0))

/-- R50: byte k of SRC, DST and STAGE sits in register word k div 4, in lane k mod 4, when the word is read and when it is
written. -/
def Obligations.BufferBytesSitInTheirLanes : Prop :=
  ∀ s : State,
    (∀ (w : Fin 4) (j : Fin 4), (memRead (regIndex (.src w)) s).extractLsb' (8 * j.val) 8 =
      byteAt s.src (4 * w.val + j.val)) ∧
    (∀ (w : Fin 4) (j : Fin 4), (memRead (regIndex (.dst w)) s).extractLsb' (8 * j.val) 8 =
      byteAt s.dst (4 * w.val + j.val)) ∧
    (∀ (w : Fin 16) (j : Fin 4), (memRead (regIndex (.stage w)) s).extractLsb' (8 * j.val) 8 =
      byteAt s.stage (4 * w.val + j.val)) ∧
    (s.busy = false → ∀ (w : Fin 4) (j : Fin 4) (v : Word),
      byteAt (memWrite (regIndex (.src w)) v s).src (4 * w.val + j.val) = v.extractLsb' (8 * j.val) 8) ∧
    (s.busy = false → ∀ (w : Fin 16) (j : Fin 4) (v : Word),
      byteAt (memWrite (regIndex (.stage w)) v s).stage (4 * w.val + j.val) = v.extractLsb' (8 * j.val) 8)

/-- R27, R29, R31, R75: an operand register written while idle reads back unchanged, and no other register's word
changes. -/
def Obligations.WrittenOperandsReadBack : Prop :=
  ∀ (s : State) (r : Reg) (v : Word), s.busy = false → r.writable = true → r ≠ .cmd →
    memRead (regIndex r) (memWrite (regIndex r) v s) = v ∧
    ∀ r' : Reg, r' ≠ r → memRead (regIndex r') (memWrite (regIndex r) v s) = memRead (regIndex r') s

/-- R71: what a host read returns, and that it changes no state of the block: the host takes the word and moves on. That a
step of the latency passes with it is the model's choice (log entry 1). -/
def Obligations.ReadsReturnTheRegisterAndChangeNothing : Prop :=
  ∀ s : State,
    (memRead (regIndex .cmd) s = 0 ∧ (∀ k, memRead (regIndex (.reserved k)) s = 0) ∧
      memRead (regIndex .status) s = statusWord s ∧ (statusWord s).getLsbD 1 = decide (s.csLen ≠ 0) ∧
      memRead (regIndex .codeIn) s = s.codeIn ∧ memRead (regIndex .result) s = s.result ∧
      memRead (regIndex .csLen) s = s.csLen.setWidth 32 ∧ memRead (regIndex .dstLen) s = s.dstLen.setWidth 32 ∧
      (statusWord s &&& 0xFFFFF088 = 0) ∧
      (∀ w, memRead (regIndex (.src w)) s = bufferWord s.src w.val) ∧
      (∀ w, memRead (regIndex (.dst w)) s = bufferWord s.dst w.val) ∧
      (∀ w, memRead (regIndex (.stage w)) s = bufferWord s.stage w.val)) ∧
    ∀ (k : Fin 8) (r : Reg), HostsTurn s → nextHostOp s = some (.rd k r) →
      step s = .next { tick (takeSample s) with
        host := { s.host with temps := s.host.temps.set k (memRead (regIndex r) s), place := s.host.place + 1 } }

/-- R91: the value of an operand, an immediate or a temporary, and the other three operations of the host notation, each at
the host's turn. That AND and BNZ, internal to the host, take one step of the machine each is the model's choice (log entry
14), as is that the latency is counted in such steps (log entry 1). -/
def Obligations.HostOperationsDoWhatTheNotationSays : Prop :=
  (∀ (x : Word) (h : HostAgent), hostValue (.imm x) h = x) ∧
  (∀ (k : Fin 8) (h : HostAgent), hostValue (.tmp k) h = h.temps[k]) ∧
  ∀ s : State, HostsTurn s →
    (∀ r v, nextHostOp s = some (.wr r v) → ∃ u, u = memWrite (regIndex r) (hostValue v s.host) (tick (takeSample s)) ∧
      step s = .next { u with host := { s.host with place := s.host.place + 1 } }) ∧
    (∀ k j v, nextHostOp s = some (.and k j v) →
      step s = .next { tick (takeSample s) with
        host := { s.host with
          temps := s.host.temps.set k (s.host.temps[j] &&& hostValue v s.host), place := s.host.place + 1 } }) ∧
    (∀ k p, nextHostOp s = some (.bnz k p) →
      step s = .next { tick (takeSample s) with
        host := { s.host with place := if s.host.temps[k] ≠ 0 then p else s.host.place + 1 } })

/-- R92: what `WAIT`, `RUN` and `WRSTR` expand to, at every place of a host program. -/
def Obligations.PseudoInstructionsExpandAsListed : Prop :=
  ∀ (whole : List HostLine) (p : Nat),
    expandLine whole p .wait = some [.rd 7 .status, .and 7 7 (.imm 1), .bnz 7 p] ∧
    (∀ w, expandLine whole p (.run w) =
      some [.wr .cmd (.imm w), .rd 7 .status, .and 7 7 (.imm 1), .bnz 7 (p + 1)]) ∧
    (∀ str : List Byte, str.length ≤ 16 → ∃ ops, expandLine whole p (.wrstrSrc str) = some ops ∧
      ops.length = (str.length + 3) / 4 ∧
      ∀ w : Fin 4, 4 * w.val < str.length → ops[w.val]? = some (.wr (.src w) (.imm
        (word4 (str.getD (4 * w.val) 0) (str.getD (4 * w.val + 1) 0) (str.getD (4 * w.val + 2) 0)
          (str.getD (4 * w.val + 3) 0))))) ∧
    ∀ str : List Byte, str.length ≤ 64 → ∃ ops, expandLine whole p (.wrstrStage str) = some ops ∧
      ops.length = (str.length + 3) / 4 ∧
      ∀ w : Fin 16, 4 * w.val < str.length → ops[w.val]? = some (.wr (.stage w) (.imm
        (word4 (str.getD (4 * w.val) 0) (str.getD (4 * w.val + 1) 0) (str.getD (4 * w.val + 2) 0)
          (str.getD (4 * w.val + 3) 0))))

/-- R51: the persisted form of a code, and that a read of RESULT returns the code itself. -/
def Obligations.PersistedFormIsLittleEndian : Prop :=
  (∀ c : Word, persistedBytes c = [c.extractLsb' 0 8, c.extractLsb' 8 8, c.extractLsb' 16 8, c.extractLsb' 24 8]) ∧
  (∀ c : Word, numericForm 256 ((persistedBytes c).map BitVec.toNat) = c.toNat) ∧
  ∀ s : State, memRead (regIndex .result) s = s.result

/-! ## Reset (70_reset_and_hazards.md) -/

/-- R190, R191: one cycle with rst_n low. Every register and buffer of the block is 0 after it, whatever was outstanding is
abandoned, the host's write is ignored and its read returns 0. The working registers are don't-care. The counter `wait` is
the model's own (log entry 1), as is that the host's program goes on under reset (log entry 14). -/
def Obligations.ResetCycleClearsTheBlock : Prop :=
  ∀ s : State, resetIsLow s = true → ∃ wk d h,
    step s = .next
      { busy := false, wib := false, err := .ok, errIdx := 0, codeIn := 0, result := 0, csLen := 0, dstLen := 0,
        src := Vector.replicate 16 0x00, dst := Vector.replicate 16 0x00, stage := Vector.replicate 64 0x00,
        cs := Vector.replicate 64 0x00, pend := 0, work := wk, wait := 0, draws := d, rstN := s.rstN.tail, host := h } ∧
    (∀ r v, nextHostOp s = some (.wr r v) → h = { s.host with place := s.host.place + 1 }) ∧
    (∀ k r, nextHostOp s = some (.rd k r) →
      h = { s.host with temps := s.host.temps.set k 0, place := s.host.place + 1 })

/-- R190, 95_test_vectors.md §2.5: after reset every word of the window reads 0; PEND and CS are 0 too. That the working
registers, the host and the counters are 0 there is the model's choice (log entries 1 to 4) and is not stated. -/
def Obligations.ResetStateReadsZeroEverywhere : Prop :=
  (∀ a : BitVec 5, memRead a State.reset = 0) ∧ State.reset.pend = 0 ∧ (∀ k, byteAt State.reset.cs k = 0x00) ∧
  State.reset.err = .ok ∧ busyOutput State.reset = false

/-- R192: after reset the codec is inert; on an inert codec MAXCHARS gives 0 and every ENCODE and DECODE fails with
INVALID_CHARSET; and it stays inert until a LOADDEF or a CONFIG with a legal length commits. -/
def Obligations.InertUntilACodecIsConstructed : Prop :=
  InertCodec State.reset ∧ (memRead (regIndex .status) State.reset).getLsbD 1 = false ∧
  ∀ s : State, InertCodec s →
    (∃ t, exec .maxchars s = .next t ∧ t.result = 0) ∧
    (∀ n, ∃ t, exec (.encode n) s = .next t ∧ t.err = .invalidCharset) ∧
    (∀ zf, ∃ t, exec (.decode zf) s = .next t ∧ t.err = .invalidCharset) ∧
    ∀ t : State, step s = .next t → ¬ InertCodec t →
      CommitsNext s ∧
        (decode s.pend = .instr .loaddef ∨ ∃ n, 10 ≤ n ∧ n ≤ 64 ∧ decode s.pend = .instr (.config n))

/-! ## The ROMs (20_memory.md §5, §6) -/

/-- R60, R61: row L holds L^0 to L^MAXC(L) at ROM address (L - 10) * 10 on, then words of 0; 383 entries in all. -/
def Obligations.PowerTableHoldsThePowers : Prop :=
  (∀ L, 10 ≤ L → L ≤ 64 → ∀ i, i ≤ 9 →
    romWord ((L - 10) * 10 + i) = pwr L i ∧
    (i ≤ maxC L → (pwr L i).toNat = L ^ i ∧ L ^ i ≤ 2 ^ 32 - 1) ∧ (maxC L < i → pwr L i = 0)) ∧
  ((List.range 55).map fun k => maxC (k + 10) + 1).sum = 383

/-- R62: MAXC(L) is the largest n with L^n ≤ 2^32 - 1, takes the values of R62's table, and is 0 where there is no row. -/
def Obligations.MaxcIsTheLargestExponent : Prop :=
  (∀ L, 10 ≤ L → L ≤ 64 → L ^ maxC L ≤ 2 ^ 32 - 1 ∧ ∀ n, L ^ n ≤ 2 ^ 32 - 1 → n ≤ maxC L) ∧
  (∀ L, (L < 10 ∨ 64 < L) → maxC L = 0) ∧
  (∀ L, 10 ≤ L → L ≤ 11 → maxC L = 9) ∧ (∀ L, 12 ≤ L → L ≤ 15 → maxC L = 8) ∧
  (∀ L, 16 ≤ L → L ≤ 23 → maxC L = 7) ∧ (∀ L, 24 ≤ L → L ≤ 40 → maxC L = 6) ∧
  (∀ L, 41 ≤ L → L ≤ 64 → maxC L = 5)

/-- R66: no digit sequence that fits in MAXC(L) positions, no part of it and no product of its digits exceeds
2^32 - 2. -/
def Obligations.DigitSumsStayBelow32Bits : Prop :=
  ∀ (L : Nat) (ds : List Nat), 10 ≤ L → L ≤ 64 → ds.length ≤ maxC L → (∀ d ∈ ds, d ≤ L - 1) →
    numericForm L ds ≤ L ^ ds.length - 1 ∧ L ^ ds.length - 1 ≤ 2 ^ 32 - 2 ∧
    (∀ m, numericForm L (ds.take m) ≤ 2 ^ 32 - 2) ∧
    ∀ i, i < ds.length → ds.getD i 0 * (pwr L i).toNat ≤ 2 ^ 32 - 2

/-- R64, R65: the 40 symbols of the default set. -/
def Obligations.DefaultSetIsTheListedSymbols : Prop :=
  defaultLength = 40 ∧ defaultSymbol 0 = 0x20 ∧ (∀ k : Fin 26, defaultSymbol (1 + k.val) = 0x41 + BitVec.ofNat 8 k.val) ∧
  (∀ k : Fin 10, defaultSymbol (27 + k.val) = 0x30 + BitVec.ofNat 8 k.val) ∧
  defaultSymbol 37 = 0x2D ∧ defaultSymbol 38 = 0x5F ∧ defaultSymbol 39 = 0x2F

/-! ## NOP, CONFIG, LOADDEF, MAXCHARS (41_codec_config.md) -/

/-- R100: NOP completes in every state, and writes the outcome alone. -/
def Obligations.NopWritesOnlyTheOutcome : Prop :=
  ∀ s : State, exec .nop s = .next { s with err := .ok, errIdx := 0, busy := false }

/-- R101, R102: CONFIG n completes in every state. A legal length takes the first n staged bytes and clears the rest of
CS; any other length makes the codec inert. Nothing else changes. -/
def Obligations.ConfigBuildsTheStagedSet : Prop :=
  ∀ (n : Nat) (s : State), ∃ set : Vector Byte 64, ∃ len : BitVec 7,
    exec (.config n) s = .next { s with cs := set, csLen := len, err := .ok, errIdx := 0, busy := false } ∧
    (10 ≤ n → n ≤ 64 → len.toNat = n ∧ ∀ k, k < 64 → byteAt set k = if k < n then byteAt s.stage k else 0x00) ∧
    (n < 10 ∨ 64 < n → len = 0 ∧ ∀ k, k < 64 → byteAt set k = 0x00)

/-- R104: LOADDEF completes in every state, loads the 40 default symbols and changes nothing else; CONFIG 40 over the same
bytes in STAGE gives the same. -/
def Obligations.LoaddefLoadsTheDefaultSet : Prop :=
  ∀ s : State, ∃ set : Vector Byte 64,
    exec .loaddef s = .next { s with cs := set, csLen := 40, err := .ok, errIdx := 0, busy := false } ∧
    (∀ k, k < 64 → byteAt set k = if k < 40 then defaultSymbol k else 0x00) ∧
    ∀ staged : Vector Byte 64, (∀ k, k < 40 → byteAt staged k = defaultSymbol k) →
      exec (.config 40) { s with stage := staged } =
        .next { s with stage := staged, cs := set, csLen := 40, err := .ok, errIdx := 0, busy := false }

/-- R106, R107: MAXCHARS completes in every state, an inert codec included; RESULT takes the table's bound. -/
def Obligations.MaxcharsReturnsTheBound : Prop :=
  ∀ s : State, ∃ m, exec .maxchars s =
      .next { s with result := BitVec.ofNat 32 m, err := .ok, errIdx := 0, busy := false } ∧
    (InertCodec s → m = 0) ∧
    (10 ≤ setLength s → setLength s ≤ 11 → m = 9) ∧ (12 ≤ setLength s → setLength s ≤ 15 → m = 8) ∧
    (16 ≤ setLength s → setLength s ≤ 23 → m = 7) ∧ (24 ≤ setLength s → setLength s ≤ 40 → m = 6) ∧
    (41 ≤ setLength s → setLength s ≤ 64 → m = 5)

/-! ## ENCODE (42_encode.md) -/

/-- R134: ENCODE on an inert codec, for every n. -/
def Obligations.EncodeOfAnInertCodecFails : Prop :=
  ∀ (n : Nat) (s : State), InertCodec s →
    exec (.encode n) s = .next { s with err := .invalidCharset, errIdx := 0, busy := false }

/-- R133: ENCODE of more than MAXC(L) symbols, which every n from 10 on is. -/
def Obligations.EncodeBeyondMaxcFails : Prop :=
  ∀ (n : Nat) (s : State), ValidCodec s → (maxC (setLength s) < n ∨ 10 ≤ n) →
    exec (.encode n) s = .next { s with err := .lengthExceeded, errIdx := 0, busy := false }

/-- R132: LOOKUP gives the lowest position below L that holds the symbol, and nothing when there is none. -/
def Obligations.LookupFindsTheLowestPosition : Prop :=
  ∀ (set : Vector Byte 64) (L : Nat) (b : Byte),
    (∀ d, lookup set L b = some d ↔ d < L ∧ byteAt set d = b ∧ ∀ k, k < d → byteAt set k ≠ b) ∧
    (lookup set L b = none ↔ ∀ k, k < L → byteAt set k ≠ b)

/-- R138: a missing symbol is always INVALID_SYMBOL at the lowest such index, and RESULT keeps its value. -/
def Obligations.EncodeReportsTheFirstMissingSymbol : Prop :=
  ∀ (n i : Nat) (s : State), ValidCodec s → n ≤ maxC (setLength s) → i < n → ¬ InSet s (byteAt s.src i) →
    (∀ j, j < i → InSet s (byteAt s.src j)) → ∃ wk idx,
      exec (.encode n) s = .next { s with work := wk, err := .invalidSymbol, errIdx := idx, busy := false } ∧
      idx.toNat = i

/-- R130, R131, 00_scope.md R5: ENCODE of n ≤ MAXC(L) symbols of the set completes with the numeric form of their digits,
which does not wrap. -/
def Obligations.EncodeSumsTheDigits : Prop :=
  ∀ (n : Nat) (s : State) (ds : List Nat), ValidCodec s → n ≤ maxC (setLength s) → ds.length = n →
    (∀ i, i < n → lookup s.cs (setLength s) (byteAt s.src i) = some (ds.getD i 0)) → ∃ wk r,
      exec (.encode n) s = .next { s with work := wk, result := r, err := .ok, errIdx := 0, busy := false } ∧
      r.toNat = numericForm (setLength s) ds

/-- R135: no ENCODE commits with OVERFLOW, in any state. -/
def Obligations.EncodeNeverOverflows : Prop :=
  ∀ (n : Nat) (s t : State), exec (.encode n) s = .next t → t.err ≠ .overflow

/-- R27: ENCODE n does not depend on SRC[k] for k ≥ n and does not write SRC. -/
def Obligations.EncodeReadsOnlyItsSymbols : Prop :=
  ∀ (n : Nat) (s t : State) (other : Vector Byte 16), (∀ k, k < n → byteAt other k = byteAt s.src k) →
    exec (.encode n) s = .next t →
    t.src = s.src ∧ exec (.encode n) { s with src := other } = .next { t with src := other }

/-- R137: zero symbols appended at the end do not change the result. -/
def Obligations.TrailingZeroSymbolsAreLost : Prop :=
  ∀ (n m : Nat) (s t : State), ValidCodec s → n ≤ m → m ≤ maxC (setLength s) →
    (∀ k, n ≤ k → k < m → byteAt s.src k = zeroSymbol s) →
    exec (.encode n) s = .next t → t.err = .ok →
    ∃ u, exec (.encode m) s = .next u ∧ u.err = .ok ∧ u.result = t.result

/-! ## DECODE (43_decode.md) -/

/-- R155: DECODE and DECODE.Z on an inert codec. -/
def Obligations.DecodeOfAnInertCodecFails : Prop :=
  ∀ (zf : Bool) (s : State), InertCodec s →
    exec (.decode zf) s = .next { s with err := .invalidCharset, errIdx := 0, busy := false }

/-- R152, R153, R154, R156: what DECODE and DECODE.Z of a valid codec leave: how many symbols, which symbol at each
position, 0x00 past them, LENGTH_EXCEEDED exactly when the code needs more than MAXC(L) digits, and nothing else. -/
def Obligations.DecodeEmitsTheDigits : Prop :=
  ∀ (zf : Bool) (s : State), ValidCodec s → ∃ wk out p len,
    exec (.decode zf) s = .next
      { s with work := wk, dst := out, dstLen := len, errIdx := 0, busy := false,
               err := if setLength s ^ maxC (setLength s) ≤ s.codeIn.toNat then .lengthExceeded else .ok } ∧
    len.toNat = p ∧ p ≤ maxC (setLength s) ∧ p ≤ 9 ∧
    (zf = true → p = maxC (setLength s)) ∧
    (setLength s ^ maxC (setLength s) ≤ s.codeIn.toNat → p = maxC (setLength s)) ∧
    (zf = false → s.codeIn.toNat < setLength s ^ maxC (setLength s) →
      s.codeIn.toNat < setLength s ^ p ∧ ∀ j, j < p → setLength s ^ j ≤ s.codeIn.toNat) ∧
    ∀ k, byteAt out k = if k < p then byteAt s.cs (s.codeIn.toNat / setLength s ^ k % setLength s) else 0x00

/-- R157: the round-trip law. The host moves RESULT to CODE_IN between the two commands. -/
def Obligations.DecodeInvertsEncode : Prop :=
  ∀ (n : Nat) (s : State), ValidCodec s → DistinctSymbols s → n ≤ maxC (setLength s) →
    (∀ b ∈ srcString n s, InSet s b) → ∃ t, exec (.encode n) s = .next t ∧ t.err = .ok ∧
      (∃ u, exec (.decode false) { t with codeIn := t.result } = .next u ∧ u.err = .ok ∧
        dstString u = trimTrailing (zeroSymbol s) (srcString n s)) ∧
      (∃ u, exec (.decode true) { t with codeIn := t.result } = .next u ∧ u.err = .ok ∧
        dstString u = srcString n s ++ List.replicate (maxC (setLength s) - n) (zeroSymbol s))

/-! ## Outcomes and frames over all commands (10_state.md §6, 60_exceptions.md) -/

/-- R170, R173: which outcome the commit of each word reports, first cause first, and the index recorded with it. -/
def Obligations.EachCommitReportsTheFirstCause : Prop :=
  ∀ s t : State, CommitsNext s → step s = .next t →
    (t.err = .illegalCmd ↔ NoCommand s.pend) ∧
    (t.err = .invalidCharset ↔
      InertCodec s ∧ ((∃ n, decode s.pend = .instr (.encode n)) ∨ ∃ zf, decode s.pend = .instr (.decode zf))) ∧
    (t.err = .lengthExceeded ↔
      ¬ InertCodec s ∧
        ((∃ n, decode s.pend = .instr (.encode n) ∧ maxC (setLength s) < n) ∨
         ((∃ zf, decode s.pend = .instr (.decode zf)) ∧ setLength s ^ maxC (setLength s) ≤ s.codeIn.toNat))) ∧
    (t.err = .invalidSymbol ↔
      ¬ InertCodec s ∧ ∃ n, decode s.pend = .instr (.encode n) ∧ n ≤ maxC (setLength s) ∧
        ∃ i, i < n ∧ ¬ InSet s (byteAt s.src i)) ∧
    t.err ≠ .overflow ∧
    (t.err = .invalidSymbol → ¬ InSet s (byteAt s.src t.errIdx.toNat) ∧
      ∀ j, j < t.errIdx.toNat → InSet s (byteAt s.src j)) ∧
    (t.err ≠ .invalidSymbol → t.errIdx = 0)

/-- R172: an error commit writes ERR, ERRIDX and BUSY, and nothing else the host can see, but for DST and DSTLEN of
DECODE's LENGTH_EXCEEDED. -/
def Obligations.ErrorCommitsArePrecise : Prop :=
  ∀ s t : State, CommitsNext s → step s = .next t → t.err ≠ .ok →
    (∃ wk, t = { takeSample s with work := wk, err := t.err, errIdx := t.errIdx, busy := false }) ∨
    (t.err = .lengthExceeded ∧ (∃ zf, decode s.pend = .instr (.decode zf)) ∧
      ∃ wk, t = { takeSample s with work := wk, dst := t.dst, dstLen := t.dstLen, err := t.err, errIdx := t.errIdx,
                                    busy := false })

/-- R41: the table of what each command's commit can write, and the flags of acceptance. -/
def Obligations.CommandsWriteOnlyWhatTheTableSays : Prop :=
  (∀ (s : State) (w : Word), s.busy = false →
    (memWrite (regIndex .cmd) w s).busy = true ∧ (memWrite (regIndex .cmd) w s).wib = false ∧
    (memWrite (regIndex .cmd) w s).csLen = s.csLen) ∧
  ∀ s : State,
    (∃ t, exec .nop s = .next t ∧ t = { s with err := .ok, errIdx := 0, busy := false }) ∧
    (∀ n, ∃ t, exec (.config n) s = .next t ∧
      t = { s with cs := t.cs, csLen := t.csLen, err := .ok, errIdx := 0, busy := false }) ∧
    (∃ t, exec .loaddef s = .next t ∧
      t = { s with cs := t.cs, csLen := t.csLen, err := .ok, errIdx := 0, busy := false }) ∧
    (∃ t, exec .maxchars s = .next t ∧ t = { s with result := t.result, err := .ok, errIdx := 0, busy := false }) ∧
    (∀ n, ∃ t, exec (.encode n) s = .next t ∧
      t = { s with work := t.work, result := t.result, err := t.err, errIdx := t.errIdx, busy := false } ∧
      (t.err = .ok ∨ t.err = .invalidCharset ∨ t.err = .lengthExceeded ∨ t.err = .invalidSymbol) ∧
      (t.err ≠ .ok → t.result = s.result) ∧ (t.err ≠ .invalidSymbol → t.errIdx = 0)) ∧
    (∀ zf, ∃ t, exec (.decode zf) s = .next t ∧
      t = { s with work := t.work, dst := t.dst, dstLen := t.dstLen, err := t.err, errIdx := 0, busy := false } ∧
      (t.err = .ok ∨ t.err = .invalidCharset ∨ t.err = .lengthExceeded) ∧
      (t.err = .invalidCharset → t.dst = s.dst ∧ t.dstLen = s.dstLen)) ∧
    (NoCommand s.pend → commitPending s = .next { s with err := .illegalCmd, errIdx := 0, busy := false })

/-! ## The machine -/

/-- R38: the step that commits runs the decoded command; around it the step takes the coming sample of rst_n. -/
def Obligations.StepRunsTheDecodedCommand : Prop :=
  ∀ (s : State) (i : Instr), CommitsNext s → decode s.pend = .instr i → step s = exec i (takeSample s)

/-- R170, R177, R37: the block has no trap and no access faults: every step of every state has a next state. -/
def Obligations.EveryStepHasANextState : Prop :=
  ∀ s : State, ∃ t, step s = .next t

/-- R24, R25, R28, R30, R33: the invariant holds after reset. -/
def Obligations.InvariantHoldsAfterReset : Prop := State.reset.Inv

/-- R24, R25, R28, R30, R33: every step keeps the invariant: a legal length, CS and DST padded with 0x00, DSTLEN at most 9,
ERRIDX 0 but after INVALID_SYMBOL and at most 8, OVERFLOW never the outcome. -/
def Obligations.EveryStepKeepsTheInvariant : Prop :=
  ∀ s t : State, s.Inv → step s = .next t → t.Inv

/-- R42: out of reset, the engine's commit writes no register of the host's, and the host's turn writes no register of the
engine's but WIB and, at an acceptance, PEND, BUSY and the latency. That the working registers too stand still at the host's
turn, also while a command is busy, is the model's choice (log entry 3): the spec fixes no moment at which they change. -/
def Obligations.HostAndEngineKeepToTheirRegisters : Prop :=
  ∀ s t : State, step s = .next t →
    (CommitsNext s → t.codeIn = s.codeIn ∧ t.src = s.src ∧ t.stage = s.stage ∧ t.pend = s.pend ∧ t.wib = s.wib ∧
      t.host = s.host ∧ t.busy = false) ∧
    (HostsTurn s → t.err = s.err ∧ t.errIdx = s.errIdx ∧ t.result = s.result ∧ t.dst = s.dst ∧ t.dstLen = s.dstLen ∧
      t.cs = s.cs ∧ t.csLen = s.csLen ∧ t.work = s.work ∧ (s.busy = true → t.busy = true ∧ t.pend = s.pend ∧
        t.codeIn = s.codeIn ∧ t.src = s.src ∧ t.stage = s.stage))

/-- R22 to R25, R27 to R33, R37: out of reset, each register of the block, the hidden working registers of R39 apart, changes
only at the commits and the host writes that may write it. -/
def Obligations.RegistersChangeOnlyWhereTheRulesSay : Prop :=
  ∀ s t : State, step s = .next t → resetIsLow s = false →
    (s.busy = true → t.busy = false → CommitsNext s) ∧
    (s.busy = false → t.busy = true → HostsTurn s ∧ ∃ v, nextHostOp s = some (.wr .cmd v)) ∧
    (t.wib ≠ s.wib → HostsTurn s ∧ ∃ r v, nextHostOp s = some (.wr r v) ∧ r.writable = true) ∧
    (t.err ≠ s.err ∨ t.errIdx ≠ s.errIdx → CommitsNext s) ∧
    (t.result ≠ s.result → CommitsNext s ∧ t.err = .ok ∧
      (decode s.pend = .instr .maxchars ∨ ∃ n, decode s.pend = .instr (.encode n))) ∧
    (t.cs ≠ s.cs ∨ t.csLen ≠ s.csLen → CommitsNext s ∧
      (decode s.pend = .instr .loaddef ∨ ∃ n, decode s.pend = .instr (.config n))) ∧
    (t.dst ≠ s.dst ∨ t.dstLen ≠ s.dstLen → CommitsNext s ∧ ¬ InertCodec s ∧ ∃ zf, decode s.pend = .instr (.decode zf)) ∧
    (t.codeIn ≠ s.codeIn → HostsTurn s ∧ s.busy = false ∧ ∃ v, nextHostOp s = some (.wr .codeIn v)) ∧
    (t.src ≠ s.src → HostsTurn s ∧ s.busy = false ∧ ∃ w v, nextHostOp s = some (.wr (.src w) v)) ∧
    (t.stage ≠ s.stage → HostsTurn s ∧ s.busy = false ∧ ∃ w v, nextHostOp s = some (.wr (.stage w) v)) ∧
    (t.pend ≠ s.pend → HostsTurn s ∧ s.busy = false ∧ ∃ v, nextHostOp s = some (.wr .cmd v))

/-- R171: a failed command issued again, with its operands as they were, fails again with the same outcome and leaves every
register as it is; only the hidden working registers are not spoken of. -/
def Obligations.AFailedCommandFailsAgain : Prop :=
  ∀ s t : State, commitPending s = .next t → t.err ≠ .ok →
    ∃ wk, commitPending { t with busy := true } = .next { t with work := wk }

/-- R38, R199: with rst_n high, an accepted command commits after its finite latency, with every register the command reads
as it stood at acceptance: until then only WIB and the host change. That the latency is counted in steps, by `wait`, is the
model's choice (log entry 1), and so is that the working registers stand still until the commit (log entry 3). -/
def Obligations.EveryAcceptedCommandCommits : Prop :=
  ∀ s : State, s.busy = true → (∀ high ∈ s.rstN.take (s.wait + 1), high = true) → ∃ u t : State,
    AfterSteps s.wait s u ∧
    u = { s with wib := u.wib, wait := 0, rstN := s.rstN.drop s.wait, host := u.host } ∧
    CommitsNext u ∧ step u = commitPending (takeSample u) ∧ step u = .next t ∧ t.busy = false

/-- R199, 30_encoding.md R92: with no reset to come, a WAIT loop ends, and at its end the outstanding command has committed
with nothing of the block changed but by that commit. That the latency is counted in steps is the model's choice (log entry
1). -/
def Obligations.WaitLoopsEnd : Prop :=
  ∀ (s : State) (p : Nat), s.busy = true → s.rstN = [] → s.host.place = p →
    s.host.program[p]? = some (.rd 7 .status) → s.host.program[p + 1]? = some (.and 7 7 (.imm 1)) →
    s.host.program[p + 2]? = some (.bnz 7 p) → ∃ (k : Nat) (c t : State),
      commitPending { s with wait := 0 } = .next c ∧ AfterSteps k s t ∧
      t = { c with host := t.host } ∧ t.busy = false ∧ t.host.place = p + 3 ∧ t.host.program = s.host.program

/-- R196: a write that meets an outstanding command is dropped with WIB set while the command's latency still runs, and is
performed after the commit once the latency has passed. Which of the two happens is the latency's free value, so the model
admits both (log entry 1). That the dropped write leaves the working registers alone is the model's choice (log entry 3). -/
def Obligations.AnUnwaitedWriteHasBothOutcomes : Prop :=
  ∀ (s : State) (r : Reg) (v : Word), s.busy = true → s.rstN = [] → r.writable = true →
    nextHostOp s = some (.wr r (.imm v)) →
    (s.wait ≠ 0 → step s = .next { s with
      wib := true, wait := s.wait - 1, host := { s.host with place := s.host.place + 1 } }) ∧
    (s.wait = 0 → ∃ c, step s = .next c ∧ c.busy = false ∧
      step c = .next { memWrite (regIndex r) v c with host := { s.host with place := s.host.place + 1 } })

/-- R39: the working registers are never seen. Whatever they hold, a step goes the same way but for them, and no read of
the host window tells. -/
def Obligations.WorkingRegistersAreNeverSeen : Prop :=
  ∀ (s t : State) (wk : Work), step s = .next t →
    (∃ wk', step { s with work := wk } = .next { t with work := wk' }) ∧
    ∀ r : Reg, memRead (regIndex r) { s with work := wk } = memRead (regIndex r) s

/-- R182, R200: once a run is over, with no reset to come, nothing changes: the final state stays. That the
working registers stay with it is the model's choice (log entry 3). -/
def Obligations.AnIdleBlockKeepsItsState : Prop :=
  ∀ s : State, RunIsOver s → s.rstN = [] → step s = .next s
end

