-- ==== Sys2Proof/Laws/Rom.lean ====
section
/-! SUPPORT. Lemmas about the two ROMs. -/

namespace Sys2Proof.Machine

theorem legalLength_iff (L : Nat) : legalLength L = true ↔ 10 ≤ L ∧ L ≤ 64 := by
  simp [legalLength]

/-- A length that is not legal has no row, so its MAXC is 0. -/
theorem maxC_of_not_legal {L : Nat} (h : legalLength L = false) : maxC L = 0 := by
  simp [maxC, powerRow, h]

/-- A table row has at most `k` entries when it is built with bound `k`. -/
theorem powersFrom_length_le (L k p : Nat) : (powersFrom L k p).length ≤ k := by
  induction k generalizing p with
  | zero => simp [powersFrom]
  | succ k ih =>
    unfold powersFrom
    split
    · simpa using ih (p * L)
    · simp

/-- Entry `i` of a row is its start times L^i. -/
theorem powersFrom_getD (L k p i : Nat) (h : i < (powersFrom L k p).length) :
    (powersFrom L k p).getD i 0 = p * L ^ i := by
  induction k generalizing p i with
  | zero => simp [powersFrom] at h
  | succ k ih =>
    unfold powersFrom at h ⊢
    split at h
    · rename_i hp
      rw [if_pos hp]
      cases i with
      | zero => simp
      | succ i =>
        have := ih (p * L) i (by simpa using h)
        simp only [List.getD_cons_succ, this]
        ring
    · simp at h

theorem maxC_le_nine (L : Nat) : maxC L ≤ 9 := by
  unfold maxC powerRow
  split
  · have := powersFrom_length_le L 10 1
    omega
  · simp

/-- A legal length has at least 5 digits. -/
theorem maxC_pos {L : Nat} (h : legalLength L = true) : 5 ≤ maxC L := by
  obtain ⟨h1, h2⟩ := (legalLength_iff L).1 h
  have key : ∀ L : Fin 65, 10 ≤ L.val → 5 ≤ maxC L.val := by decide +kernel
  exact key ⟨L, by omega⟩ h1

end Sys2Proof.Machine
end

