-- ==== Sys2Proof/Laws/Operands.lean ====
section
/-! SUPPORT. Lemmas about buffers, lanes, the lookup and the two digit loops. -/

namespace Sys2Proof.Machine

/-! Reading a byte -/

theorem byteAt_of_lt {n : Nat} (buf : Vector Byte n) {k : Nat} (h : k < n) : byteAt buf k = buf[k] := by
  simp [byteAt, h]

theorem byteAt_of_le {n : Nat} (buf : Vector Byte n) {k : Nat} (h : n ≤ k) : byteAt buf k = 0x00 := by
  simp [byteAt, h]

theorem byteAt_ofFn {n : Nat} (f : Fin n → Byte) (k : Nat) :
    byteAt (Vector.ofFn f) k = if h : k < n then f ⟨k, h⟩ else 0x00 := by
  by_cases h : k < n <;> simp [byteAt, h]

@[simp] theorem byteAt_zeroBytes (n k : Nat) : byteAt (zeroBytes n) k = 0x00 := by
  by_cases h : k < n <;> simp [byteAt, zeroBytes, h]

/-- Two buffers with equal bytes are equal. -/
theorem buffer_ext {n : Nat} {a b : Vector Byte n} (h : ∀ k, k < n → byteAt a k = byteAt b k) : a = b := by
  ext1 k hk
  simpa [byteAt, hk] using h k hk

theorem byteAt_characterSet (L : Nat) (sym : Nat → Byte) (k : Nat) :
    byteAt (characterSet L sym) k = if k < L ∧ k < 64 then sym k else 0x00 := by
  rw [characterSet, byteAt_ofFn]
  by_cases h : k < 64 <;> simp [h]

theorem byteAt_outBytes (symbols : List Byte) (k : Nat) :
    byteAt (outBytes symbols) k = if k < 16 then symbols.getD k 0x00 else 0x00 := by
  rw [outBytes, byteAt_ofFn]
  by_cases h : k < 16 <;> simp [h]

theorem byteAt_setBufferWord {n : Nat} (buf : Vector Byte n) (w : Nat) (v : Word) (k : Nat) (hk : k < n) :
    byteAt (setBufferWord buf w v) k = if k / 4 = w then lane v (k % 4) else byteAt buf k := by
  rw [setBufferWord, byteAt_ofFn, dif_pos hk]
  simp [byteAt, hk]

/-! Lanes -/

theorem lane0_word4 (a b c d : Byte) : lane (word4 a b c d) 0 = a := by
  apply BitVec.eq_of_getLsbD_eq
  intro i hi
  simp only [lane, word4, BitVec.getLsbD_extractLsb', BitVec.getLsbD_append]
  simp [hi]

theorem lane1_word4 (a b c d : Byte) : lane (word4 a b c d) 1 = b := by
  apply BitVec.eq_of_getLsbD_eq
  intro i hi
  simp only [lane, word4, BitVec.getLsbD_extractLsb', BitVec.getLsbD_append]
  simp [hi]

theorem lane2_word4 (a b c d : Byte) : lane (word4 a b c d) 2 = c := by
  apply BitVec.eq_of_getLsbD_eq
  intro i hi
  simp only [lane, word4, BitVec.getLsbD_extractLsb', BitVec.getLsbD_append]
  simp [hi, show ¬ (16 + i < 8) by omega, show ¬ (16 + i - 8 < 8) by omega, show 16 + i - 8 - 8 = i by omega]

theorem lane3_word4 (a b c d : Byte) : lane (word4 a b c d) 3 = d := by
  apply BitVec.eq_of_getLsbD_eq
  intro i hi
  simp only [lane, word4, BitVec.getLsbD_extractLsb', BitVec.getLsbD_append]
  simp [hi, show ¬ (24 + i < 8) by omega, show ¬ (24 + i - 8 < 8) by omega, show ¬ (24 + i - 8 - 8 < 8) by omega,
    show 24 + i - 8 - 8 - 8 = i by omega]

/-- A word is its four lanes. -/
theorem word4_lanes (v : Word) : word4 (lane v 0) (lane v 1) (lane v 2) (lane v 3) = v := by
  apply BitVec.eq_of_getLsbD_eq
  intro i hi
  simp only [lane, word4, BitVec.getLsbD_extractLsb', BitVec.getLsbD_append]
  rcases Nat.lt_or_ge i 8 with h0 | h0
  · simp [h0]
  rcases Nat.lt_or_ge i 16 with h1 | h1
  · simp [show ¬ i < 8 by omega, show i - 8 < 8 by omega, show 8 + (i - 8) = i by omega]
  rcases Nat.lt_or_ge i 24 with h2 | h2
  · simp [show ¬ i < 8 by omega, show ¬ i - 8 < 8 by omega, show i - 8 - 8 < 8 by omega,
      show 16 + (i - 8 - 8) = i by omega]
  · simp [show ¬ i < 8 by omega, show ¬ i - 8 < 8 by omega, show ¬ i - 8 - 8 < 8 by omega,
      show i - 8 - 8 - 8 < 8 by omega, show 24 + (i - 8 - 8 - 8) = i by omega]

/-- STATUS is read from its five fields alone. -/
theorem statusWord_congr {s t : State} (busy : s.busy = t.busy) (wib : s.wib = t.wib) (err : s.err = t.err)
    (errIdx : s.errIdx = t.errIdx) (csLen : s.csLen = t.csLen) : statusWord s = statusWord t := by
  unfold statusWord validFlag
  rw [busy, wib, err, errIdx, csLen]

/-! The lookup -/

/-- Whatever position the lookup gives lies below L and holds the symbol. -/
theorem lookup_sound {cs : Vector Byte 64} {L : Nat} {sym : Byte} {d : Nat} (h : lookup cs L sym = some d) :
    d < L ∧ byteAt cs d = sym := by
  have h1 := List.mem_of_find?_eq_some h
  have h2 := List.find?_some h
  exact ⟨by simpa using h1, by simpa using h2⟩

/-- No lookup result means no position holds the symbol. -/
theorem lookup_none {cs : Vector Byte 64} {L : Nat} {sym : Byte} (h : lookup cs L sym = none) {k : Nat} (hk : k < L) :
    byteAt cs k ≠ sym := by
  have := List.find?_eq_none.1 h k (by simpa using hk)
  simpa using this

/-! The digit loops -/

/-- DECODE's loop emits at most one symbol per position. -/
theorem emitDigits_length_le (L : Nat) (zf : Bool) (cs : Vector Byte 64) (k rem : Nat) :
    (emitDigits L zf cs k rem).symbols.length ≤ k := by
  induction k generalizing rem with
  | zero => simp [emitDigits]
  | succ k ih =>
    unfold emitDigits
    split
    · simpa using ih (rem / L)
    · split
      · simpa using ih rem
      · simp

/-- What DECODE's loop leaves of REM: the code without its `k` low digits. -/
theorem emitDigits_rem (L : Nat) (zf : Bool) (cs : Vector Byte 64) (k rem : Nat) :
    (emitDigits L zf cs k rem).rem = rem / L ^ k := by
  induction k generalizing rem with
  | zero => simp [emitDigits]
  | succ k ih =>
    unfold emitDigits
    split
    · simp only [ih]
      rw [Nat.div_div_eq_div_mul, pow_succ']
    · rename_i h
      have h0 : rem = 0 := by omega
      subst h0
      split <;> simp [ih]

/-- ENCODE's loop ends at most `k` positions on; where it ends early it ends at a symbol it has not summed. -/
theorem sumDigits_pos (L : Nat) (cs : Vector Byte 64) (src : Vector Byte 16) (k i : Nat) (acc : Word) :
    i ≤ (sumDigits L cs src k i acc).pos ∧ (sumDigits L cs src k i acc).pos ≤ i + k ∧
      ((sumDigits L cs src k i acc).err ≠ .ok → (sumDigits L cs src k i acc).pos < i + k) := by
  induction k generalizing i acc with
  | zero => simp [sumDigits]
  | succ k ih =>
    unfold sumDigits
    split
    · simp
    · split
      · simp
      · rename_i d _ _
        obtain ⟨h1, h2, h3⟩ := ih (i + 1) (acc + BitVec.ofNat 32 d * pwr L i)
        exact ⟨by omega, by omega, fun h => by have := h3 h; omega⟩

/-- ENCODE's loop ends with OK, INVALID_SYMBOL or OVERFLOW. -/
theorem sumDigits_err (L : Nat) (cs : Vector Byte 64) (src : Vector Byte 16) (k i : Nat) (acc : Word) :
    (sumDigits L cs src k i acc).err = .ok ∨ (sumDigits L cs src k i acc).err = .invalidSymbol ∨
      (sumDigits L cs src k i acc).err = .overflow := by
  induction k generalizing i acc with
  | zero => simp [sumDigits]
  | succ k ih =>
    unfold sumDigits
    split
    · simp
    · split
      · simp
      · exact ih _ _

end Sys2Proof.Machine
end

