-- ==== Sys2Proof/Laws/State.lean ====
section
/-! SUPPORT. One lemma per field of State per named update: a later proof rewrites with these and unfolds no record update.
Each is true by computation. -/

namespace Sys2Proof.Machine

variable (s : State)

/-! `commitWith` -/

@[simp] theorem commitWith_busy (e : Err) (idx : Nat) : (commitWith e idx s).busy = false := rfl
@[simp] theorem commitWith_wib (e : Err) (idx : Nat) : (commitWith e idx s).wib = s.wib := rfl
@[simp] theorem commitWith_err (e : Err) (idx : Nat) : (commitWith e idx s).err = e := rfl
@[simp] theorem commitWith_errIdx (e : Err) (idx : Nat) : (commitWith e idx s).errIdx = BitVec.ofNat 4 idx := rfl
@[simp] theorem commitWith_codeIn (e : Err) (idx : Nat) : (commitWith e idx s).codeIn = s.codeIn := rfl
@[simp] theorem commitWith_result (e : Err) (idx : Nat) : (commitWith e idx s).result = s.result := rfl
@[simp] theorem commitWith_csLen (e : Err) (idx : Nat) : (commitWith e idx s).csLen = s.csLen := rfl
@[simp] theorem commitWith_dstLen (e : Err) (idx : Nat) : (commitWith e idx s).dstLen = s.dstLen := rfl
@[simp] theorem commitWith_src (e : Err) (idx : Nat) : (commitWith e idx s).src = s.src := rfl
@[simp] theorem commitWith_dst (e : Err) (idx : Nat) : (commitWith e idx s).dst = s.dst := rfl
@[simp] theorem commitWith_stage (e : Err) (idx : Nat) : (commitWith e idx s).stage = s.stage := rfl
@[simp] theorem commitWith_cs (e : Err) (idx : Nat) : (commitWith e idx s).cs = s.cs := rfl
@[simp] theorem commitWith_pend (e : Err) (idx : Nat) : (commitWith e idx s).pend = s.pend := rfl
@[simp] theorem commitWith_work (e : Err) (idx : Nat) : (commitWith e idx s).work = s.work := rfl
@[simp] theorem commitWith_wait (e : Err) (idx : Nat) : (commitWith e idx s).wait = s.wait := rfl
@[simp] theorem commitWith_draws (e : Err) (idx : Nat) : (commitWith e idx s).draws = s.draws := rfl
@[simp] theorem commitWith_rstN (e : Err) (idx : Nat) : (commitWith e idx s).rstN = s.rstN := rfl
@[simp] theorem commitWith_host (e : Err) (idx : Nat) : (commitWith e idx s).host = s.host := rfl

/-! `setCodec` -/

@[simp] theorem setCodec_busy (c : Vector Byte 64) (L : Nat) : (setCodec c L s).busy = s.busy := rfl
@[simp] theorem setCodec_wib (c : Vector Byte 64) (L : Nat) : (setCodec c L s).wib = s.wib := rfl
@[simp] theorem setCodec_err (c : Vector Byte 64) (L : Nat) : (setCodec c L s).err = s.err := rfl
@[simp] theorem setCodec_errIdx (c : Vector Byte 64) (L : Nat) : (setCodec c L s).errIdx = s.errIdx := rfl
@[simp] theorem setCodec_codeIn (c : Vector Byte 64) (L : Nat) : (setCodec c L s).codeIn = s.codeIn := rfl
@[simp] theorem setCodec_result (c : Vector Byte 64) (L : Nat) : (setCodec c L s).result = s.result := rfl
@[simp] theorem setCodec_csLen (c : Vector Byte 64) (L : Nat) : (setCodec c L s).csLen = BitVec.ofNat 7 L := rfl
@[simp] theorem setCodec_dstLen (c : Vector Byte 64) (L : Nat) : (setCodec c L s).dstLen = s.dstLen := rfl
@[simp] theorem setCodec_src (c : Vector Byte 64) (L : Nat) : (setCodec c L s).src = s.src := rfl
@[simp] theorem setCodec_dst (c : Vector Byte 64) (L : Nat) : (setCodec c L s).dst = s.dst := rfl
@[simp] theorem setCodec_stage (c : Vector Byte 64) (L : Nat) : (setCodec c L s).stage = s.stage := rfl
@[simp] theorem setCodec_cs (c : Vector Byte 64) (L : Nat) : (setCodec c L s).cs = c := rfl
@[simp] theorem setCodec_pend (c : Vector Byte 64) (L : Nat) : (setCodec c L s).pend = s.pend := rfl
@[simp] theorem setCodec_work (c : Vector Byte 64) (L : Nat) : (setCodec c L s).work = s.work := rfl
@[simp] theorem setCodec_wait (c : Vector Byte 64) (L : Nat) : (setCodec c L s).wait = s.wait := rfl
@[simp] theorem setCodec_draws (c : Vector Byte 64) (L : Nat) : (setCodec c L s).draws = s.draws := rfl
@[simp] theorem setCodec_rstN (c : Vector Byte 64) (L : Nat) : (setCodec c L s).rstN = s.rstN := rfl
@[simp] theorem setCodec_host (c : Vector Byte 64) (L : Nat) : (setCodec c L s).host = s.host := rfl

/-! `setResult` -/

@[simp] theorem setResult_busy (v : Word) : (setResult v s).busy = s.busy := rfl
@[simp] theorem setResult_wib (v : Word) : (setResult v s).wib = s.wib := rfl
@[simp] theorem setResult_err (v : Word) : (setResult v s).err = s.err := rfl
@[simp] theorem setResult_errIdx (v : Word) : (setResult v s).errIdx = s.errIdx := rfl
@[simp] theorem setResult_codeIn (v : Word) : (setResult v s).codeIn = s.codeIn := rfl
@[simp] theorem setResult_result (v : Word) : (setResult v s).result = v := rfl
@[simp] theorem setResult_csLen (v : Word) : (setResult v s).csLen = s.csLen := rfl
@[simp] theorem setResult_dstLen (v : Word) : (setResult v s).dstLen = s.dstLen := rfl
@[simp] theorem setResult_src (v : Word) : (setResult v s).src = s.src := rfl
@[simp] theorem setResult_dst (v : Word) : (setResult v s).dst = s.dst := rfl
@[simp] theorem setResult_stage (v : Word) : (setResult v s).stage = s.stage := rfl
@[simp] theorem setResult_cs (v : Word) : (setResult v s).cs = s.cs := rfl
@[simp] theorem setResult_pend (v : Word) : (setResult v s).pend = s.pend := rfl
@[simp] theorem setResult_work (v : Word) : (setResult v s).work = s.work := rfl
@[simp] theorem setResult_wait (v : Word) : (setResult v s).wait = s.wait := rfl
@[simp] theorem setResult_draws (v : Word) : (setResult v s).draws = s.draws := rfl
@[simp] theorem setResult_rstN (v : Word) : (setResult v s).rstN = s.rstN := rfl
@[simp] theorem setResult_host (v : Word) : (setResult v s).host = s.host := rfl

/-! `setSummed` -/

@[simp] theorem setSummed_busy (r : Summed) : (setSummed r s).busy = s.busy := rfl
@[simp] theorem setSummed_wib (r : Summed) : (setSummed r s).wib = s.wib := rfl
@[simp] theorem setSummed_err (r : Summed) : (setSummed r s).err = s.err := rfl
@[simp] theorem setSummed_errIdx (r : Summed) : (setSummed r s).errIdx = s.errIdx := rfl
@[simp] theorem setSummed_codeIn (r : Summed) : (setSummed r s).codeIn = s.codeIn := rfl
@[simp] theorem setSummed_result (r : Summed) : (setSummed r s).result = s.result := rfl
@[simp] theorem setSummed_csLen (r : Summed) : (setSummed r s).csLen = s.csLen := rfl
@[simp] theorem setSummed_dstLen (r : Summed) : (setSummed r s).dstLen = s.dstLen := rfl
@[simp] theorem setSummed_src (r : Summed) : (setSummed r s).src = s.src := rfl
@[simp] theorem setSummed_dst (r : Summed) : (setSummed r s).dst = s.dst := rfl
@[simp] theorem setSummed_stage (r : Summed) : (setSummed r s).stage = s.stage := rfl
@[simp] theorem setSummed_cs (r : Summed) : (setSummed r s).cs = s.cs := rfl
@[simp] theorem setSummed_pend (r : Summed) : (setSummed r s).pend = s.pend := rfl
@[simp] theorem setSummed_work (r : Summed) :
    (setSummed r s).work = { s.work with acc := r.acc, pos := BitVec.ofNat 4 r.pos } := rfl
@[simp] theorem setSummed_wait (r : Summed) : (setSummed r s).wait = s.wait := rfl
@[simp] theorem setSummed_draws (r : Summed) : (setSummed r s).draws = s.draws := rfl
@[simp] theorem setSummed_rstN (r : Summed) : (setSummed r s).rstN = s.rstN := rfl
@[simp] theorem setSummed_host (r : Summed) : (setSummed r s).host = s.host := rfl

/-! `setEmittedWork` -/

@[simp] theorem setEmittedWork_busy (r : Emitted) : (setEmittedWork r s).busy = s.busy := rfl
@[simp] theorem setEmittedWork_wib (r : Emitted) : (setEmittedWork r s).wib = s.wib := rfl
@[simp] theorem setEmittedWork_err (r : Emitted) : (setEmittedWork r s).err = s.err := rfl
@[simp] theorem setEmittedWork_errIdx (r : Emitted) : (setEmittedWork r s).errIdx = s.errIdx := rfl
@[simp] theorem setEmittedWork_codeIn (r : Emitted) : (setEmittedWork r s).codeIn = s.codeIn := rfl
@[simp] theorem setEmittedWork_result (r : Emitted) : (setEmittedWork r s).result = s.result := rfl
@[simp] theorem setEmittedWork_csLen (r : Emitted) : (setEmittedWork r s).csLen = s.csLen := rfl
@[simp] theorem setEmittedWork_dstLen (r : Emitted) : (setEmittedWork r s).dstLen = s.dstLen := rfl
@[simp] theorem setEmittedWork_src (r : Emitted) : (setEmittedWork r s).src = s.src := rfl
@[simp] theorem setEmittedWork_dst (r : Emitted) : (setEmittedWork r s).dst = s.dst := rfl
@[simp] theorem setEmittedWork_stage (r : Emitted) : (setEmittedWork r s).stage = s.stage := rfl
@[simp] theorem setEmittedWork_cs (r : Emitted) : (setEmittedWork r s).cs = s.cs := rfl
@[simp] theorem setEmittedWork_pend (r : Emitted) : (setEmittedWork r s).pend = s.pend := rfl
@[simp] theorem setEmittedWork_work (r : Emitted) : (setEmittedWork r s).work = { s.work with
        rem := BitVec.ofNat 32 r.rem, pos := BitVec.ofNat 4 r.symbols.length,
        out := outBytes r.symbols, olen := BitVec.ofNat 4 r.symbols.length } := rfl
@[simp] theorem setEmittedWork_wait (r : Emitted) : (setEmittedWork r s).wait = s.wait := rfl
@[simp] theorem setEmittedWork_draws (r : Emitted) : (setEmittedWork r s).draws = s.draws := rfl
@[simp] theorem setEmittedWork_rstN (r : Emitted) : (setEmittedWork r s).rstN = s.rstN := rfl
@[simp] theorem setEmittedWork_host (r : Emitted) : (setEmittedWork r s).host = s.host := rfl

/-! `setEmitted` -/

@[simp] theorem setEmitted_busy (r : Emitted) : (setEmitted r s).busy = s.busy := rfl
@[simp] theorem setEmitted_wib (r : Emitted) : (setEmitted r s).wib = s.wib := rfl
@[simp] theorem setEmitted_err (r : Emitted) : (setEmitted r s).err = s.err := rfl
@[simp] theorem setEmitted_errIdx (r : Emitted) : (setEmitted r s).errIdx = s.errIdx := rfl
@[simp] theorem setEmitted_codeIn (r : Emitted) : (setEmitted r s).codeIn = s.codeIn := rfl
@[simp] theorem setEmitted_result (r : Emitted) : (setEmitted r s).result = s.result := rfl
@[simp] theorem setEmitted_csLen (r : Emitted) : (setEmitted r s).csLen = s.csLen := rfl
@[simp] theorem setEmitted_dstLen (r : Emitted) : (setEmitted r s).dstLen = BitVec.ofNat 4 r.symbols.length := rfl
@[simp] theorem setEmitted_src (r : Emitted) : (setEmitted r s).src = s.src := rfl
@[simp] theorem setEmitted_dst (r : Emitted) : (setEmitted r s).dst = outBytes r.symbols := rfl
@[simp] theorem setEmitted_stage (r : Emitted) : (setEmitted r s).stage = s.stage := rfl
@[simp] theorem setEmitted_cs (r : Emitted) : (setEmitted r s).cs = s.cs := rfl
@[simp] theorem setEmitted_pend (r : Emitted) : (setEmitted r s).pend = s.pend := rfl
@[simp] theorem setEmitted_work (r : Emitted) : (setEmitted r s).work = s.work := rfl
@[simp] theorem setEmitted_wait (r : Emitted) : (setEmitted r s).wait = s.wait := rfl
@[simp] theorem setEmitted_draws (r : Emitted) : (setEmitted r s).draws = s.draws := rfl
@[simp] theorem setEmitted_rstN (r : Emitted) : (setEmitted r s).rstN = s.rstN := rfl
@[simp] theorem setEmitted_host (r : Emitted) : (setEmitted r s).host = s.host := rfl

/-! `accept` -/

@[simp] theorem accept_busy (w : Word) : (accept w s).busy = true := rfl
@[simp] theorem accept_wib (w : Word) : (accept w s).wib = false := rfl
@[simp] theorem accept_err (w : Word) : (accept w s).err = s.err := rfl
@[simp] theorem accept_errIdx (w : Word) : (accept w s).errIdx = s.errIdx := rfl
@[simp] theorem accept_codeIn (w : Word) : (accept w s).codeIn = s.codeIn := rfl
@[simp] theorem accept_result (w : Word) : (accept w s).result = s.result := rfl
@[simp] theorem accept_csLen (w : Word) : (accept w s).csLen = s.csLen := rfl
@[simp] theorem accept_dstLen (w : Word) : (accept w s).dstLen = s.dstLen := rfl
@[simp] theorem accept_src (w : Word) : (accept w s).src = s.src := rfl
@[simp] theorem accept_dst (w : Word) : (accept w s).dst = s.dst := rfl
@[simp] theorem accept_stage (w : Word) : (accept w s).stage = s.stage := rfl
@[simp] theorem accept_cs (w : Word) : (accept w s).cs = s.cs := rfl
@[simp] theorem accept_pend (w : Word) : (accept w s).pend = w := rfl
@[simp] theorem accept_work (w : Word) : (accept w s).work = s.work := rfl
@[simp] theorem accept_wait (w : Word) : (accept w s).wait = Config.tCmdMinusOne s.draws := rfl
@[simp] theorem accept_draws (w : Word) : (accept w s).draws = s.draws + 1 := rfl
@[simp] theorem accept_rstN (w : Word) : (accept w s).rstN = s.rstN := rfl
@[simp] theorem accept_host (w : Word) : (accept w s).host = s.host := rfl

/-! `setCodeIn` -/

@[simp] theorem setCodeIn_busy (v : Word) : (setCodeIn v s).busy = s.busy := rfl
@[simp] theorem setCodeIn_wib (v : Word) : (setCodeIn v s).wib = s.wib := rfl
@[simp] theorem setCodeIn_err (v : Word) : (setCodeIn v s).err = s.err := rfl
@[simp] theorem setCodeIn_errIdx (v : Word) : (setCodeIn v s).errIdx = s.errIdx := rfl
@[simp] theorem setCodeIn_codeIn (v : Word) : (setCodeIn v s).codeIn = v := rfl
@[simp] theorem setCodeIn_result (v : Word) : (setCodeIn v s).result = s.result := rfl
@[simp] theorem setCodeIn_csLen (v : Word) : (setCodeIn v s).csLen = s.csLen := rfl
@[simp] theorem setCodeIn_dstLen (v : Word) : (setCodeIn v s).dstLen = s.dstLen := rfl
@[simp] theorem setCodeIn_src (v : Word) : (setCodeIn v s).src = s.src := rfl
@[simp] theorem setCodeIn_dst (v : Word) : (setCodeIn v s).dst = s.dst := rfl
@[simp] theorem setCodeIn_stage (v : Word) : (setCodeIn v s).stage = s.stage := rfl
@[simp] theorem setCodeIn_cs (v : Word) : (setCodeIn v s).cs = s.cs := rfl
@[simp] theorem setCodeIn_pend (v : Word) : (setCodeIn v s).pend = s.pend := rfl
@[simp] theorem setCodeIn_work (v : Word) : (setCodeIn v s).work = s.work := rfl
@[simp] theorem setCodeIn_wait (v : Word) : (setCodeIn v s).wait = s.wait := rfl
@[simp] theorem setCodeIn_draws (v : Word) : (setCodeIn v s).draws = s.draws := rfl
@[simp] theorem setCodeIn_rstN (v : Word) : (setCodeIn v s).rstN = s.rstN := rfl
@[simp] theorem setCodeIn_host (v : Word) : (setCodeIn v s).host = s.host := rfl

/-! `setSrcWord` -/

@[simp] theorem setSrcWord_busy (w : Fin 4) (v : Word) : (setSrcWord w v s).busy = s.busy := rfl
@[simp] theorem setSrcWord_wib (w : Fin 4) (v : Word) : (setSrcWord w v s).wib = s.wib := rfl
@[simp] theorem setSrcWord_err (w : Fin 4) (v : Word) : (setSrcWord w v s).err = s.err := rfl
@[simp] theorem setSrcWord_errIdx (w : Fin 4) (v : Word) : (setSrcWord w v s).errIdx = s.errIdx := rfl
@[simp] theorem setSrcWord_codeIn (w : Fin 4) (v : Word) : (setSrcWord w v s).codeIn = s.codeIn := rfl
@[simp] theorem setSrcWord_result (w : Fin 4) (v : Word) : (setSrcWord w v s).result = s.result := rfl
@[simp] theorem setSrcWord_csLen (w : Fin 4) (v : Word) : (setSrcWord w v s).csLen = s.csLen := rfl
@[simp] theorem setSrcWord_dstLen (w : Fin 4) (v : Word) : (setSrcWord w v s).dstLen = s.dstLen := rfl
@[simp] theorem setSrcWord_src (w : Fin 4) (v : Word) : (setSrcWord w v s).src = setBufferWord s.src w.val v := rfl
@[simp] theorem setSrcWord_dst (w : Fin 4) (v : Word) : (setSrcWord w v s).dst = s.dst := rfl
@[simp] theorem setSrcWord_stage (w : Fin 4) (v : Word) : (setSrcWord w v s).stage = s.stage := rfl
@[simp] theorem setSrcWord_cs (w : Fin 4) (v : Word) : (setSrcWord w v s).cs = s.cs := rfl
@[simp] theorem setSrcWord_pend (w : Fin 4) (v : Word) : (setSrcWord w v s).pend = s.pend := rfl
@[simp] theorem setSrcWord_work (w : Fin 4) (v : Word) : (setSrcWord w v s).work = s.work := rfl
@[simp] theorem setSrcWord_wait (w : Fin 4) (v : Word) : (setSrcWord w v s).wait = s.wait := rfl
@[simp] theorem setSrcWord_draws (w : Fin 4) (v : Word) : (setSrcWord w v s).draws = s.draws := rfl
@[simp] theorem setSrcWord_rstN (w : Fin 4) (v : Word) : (setSrcWord w v s).rstN = s.rstN := rfl
@[simp] theorem setSrcWord_host (w : Fin 4) (v : Word) : (setSrcWord w v s).host = s.host := rfl

/-! `setStageWord` -/

@[simp] theorem setStageWord_busy (w : Fin 16) (v : Word) : (setStageWord w v s).busy = s.busy := rfl
@[simp] theorem setStageWord_wib (w : Fin 16) (v : Word) : (setStageWord w v s).wib = s.wib := rfl
@[simp] theorem setStageWord_err (w : Fin 16) (v : Word) : (setStageWord w v s).err = s.err := rfl
@[simp] theorem setStageWord_errIdx (w : Fin 16) (v : Word) : (setStageWord w v s).errIdx = s.errIdx := rfl
@[simp] theorem setStageWord_codeIn (w : Fin 16) (v : Word) : (setStageWord w v s).codeIn = s.codeIn := rfl
@[simp] theorem setStageWord_result (w : Fin 16) (v : Word) : (setStageWord w v s).result = s.result := rfl
@[simp] theorem setStageWord_csLen (w : Fin 16) (v : Word) : (setStageWord w v s).csLen = s.csLen := rfl
@[simp] theorem setStageWord_dstLen (w : Fin 16) (v : Word) : (setStageWord w v s).dstLen = s.dstLen := rfl
@[simp] theorem setStageWord_src (w : Fin 16) (v : Word) : (setStageWord w v s).src = s.src := rfl
@[simp] theorem setStageWord_dst (w : Fin 16) (v : Word) : (setStageWord w v s).dst = s.dst := rfl
@[simp] theorem setStageWord_stage (w : Fin 16) (v : Word) :
    (setStageWord w v s).stage = setBufferWord s.stage w.val v := rfl
@[simp] theorem setStageWord_cs (w : Fin 16) (v : Word) : (setStageWord w v s).cs = s.cs := rfl
@[simp] theorem setStageWord_pend (w : Fin 16) (v : Word) : (setStageWord w v s).pend = s.pend := rfl
@[simp] theorem setStageWord_work (w : Fin 16) (v : Word) : (setStageWord w v s).work = s.work := rfl
@[simp] theorem setStageWord_wait (w : Fin 16) (v : Word) : (setStageWord w v s).wait = s.wait := rfl
@[simp] theorem setStageWord_draws (w : Fin 16) (v : Word) : (setStageWord w v s).draws = s.draws := rfl
@[simp] theorem setStageWord_rstN (w : Fin 16) (v : Word) : (setStageWord w v s).rstN = s.rstN := rfl
@[simp] theorem setStageWord_host (w : Fin 16) (v : Word) : (setStageWord w v s).host = s.host := rfl

/-! `dropWrite` -/

@[simp] theorem dropWrite_busy : (dropWrite s).busy = s.busy := rfl
@[simp] theorem dropWrite_wib : (dropWrite s).wib = true := rfl
@[simp] theorem dropWrite_err : (dropWrite s).err = s.err := rfl
@[simp] theorem dropWrite_errIdx : (dropWrite s).errIdx = s.errIdx := rfl
@[simp] theorem dropWrite_codeIn : (dropWrite s).codeIn = s.codeIn := rfl
@[simp] theorem dropWrite_result : (dropWrite s).result = s.result := rfl
@[simp] theorem dropWrite_csLen : (dropWrite s).csLen = s.csLen := rfl
@[simp] theorem dropWrite_dstLen : (dropWrite s).dstLen = s.dstLen := rfl
@[simp] theorem dropWrite_src : (dropWrite s).src = s.src := rfl
@[simp] theorem dropWrite_dst : (dropWrite s).dst = s.dst := rfl
@[simp] theorem dropWrite_stage : (dropWrite s).stage = s.stage := rfl
@[simp] theorem dropWrite_cs : (dropWrite s).cs = s.cs := rfl
@[simp] theorem dropWrite_pend : (dropWrite s).pend = s.pend := rfl
@[simp] theorem dropWrite_work : (dropWrite s).work = s.work := rfl
@[simp] theorem dropWrite_wait : (dropWrite s).wait = s.wait := rfl
@[simp] theorem dropWrite_draws : (dropWrite s).draws = s.draws := rfl
@[simp] theorem dropWrite_rstN : (dropWrite s).rstN = s.rstN := rfl
@[simp] theorem dropWrite_host : (dropWrite s).host = s.host := rfl

/-! `takeSample` -/

@[simp] theorem takeSample_busy : (takeSample s).busy = s.busy := rfl
@[simp] theorem takeSample_wib : (takeSample s).wib = s.wib := rfl
@[simp] theorem takeSample_err : (takeSample s).err = s.err := rfl
@[simp] theorem takeSample_errIdx : (takeSample s).errIdx = s.errIdx := rfl
@[simp] theorem takeSample_codeIn : (takeSample s).codeIn = s.codeIn := rfl
@[simp] theorem takeSample_result : (takeSample s).result = s.result := rfl
@[simp] theorem takeSample_csLen : (takeSample s).csLen = s.csLen := rfl
@[simp] theorem takeSample_dstLen : (takeSample s).dstLen = s.dstLen := rfl
@[simp] theorem takeSample_src : (takeSample s).src = s.src := rfl
@[simp] theorem takeSample_dst : (takeSample s).dst = s.dst := rfl
@[simp] theorem takeSample_stage : (takeSample s).stage = s.stage := rfl
@[simp] theorem takeSample_cs : (takeSample s).cs = s.cs := rfl
@[simp] theorem takeSample_pend : (takeSample s).pend = s.pend := rfl
@[simp] theorem takeSample_work : (takeSample s).work = s.work := rfl
@[simp] theorem takeSample_wait : (takeSample s).wait = s.wait := rfl
@[simp] theorem takeSample_draws : (takeSample s).draws = s.draws := rfl
@[simp] theorem takeSample_rstN : (takeSample s).rstN = s.rstN.tail := rfl
@[simp] theorem takeSample_host : (takeSample s).host = s.host := rfl

/-! `tick` -/

@[simp] theorem tick_busy : (tick s).busy = s.busy := rfl
@[simp] theorem tick_wib : (tick s).wib = s.wib := rfl
@[simp] theorem tick_err : (tick s).err = s.err := rfl
@[simp] theorem tick_errIdx : (tick s).errIdx = s.errIdx := rfl
@[simp] theorem tick_codeIn : (tick s).codeIn = s.codeIn := rfl
@[simp] theorem tick_result : (tick s).result = s.result := rfl
@[simp] theorem tick_csLen : (tick s).csLen = s.csLen := rfl
@[simp] theorem tick_dstLen : (tick s).dstLen = s.dstLen := rfl
@[simp] theorem tick_src : (tick s).src = s.src := rfl
@[simp] theorem tick_dst : (tick s).dst = s.dst := rfl
@[simp] theorem tick_stage : (tick s).stage = s.stage := rfl
@[simp] theorem tick_cs : (tick s).cs = s.cs := rfl
@[simp] theorem tick_pend : (tick s).pend = s.pend := rfl
@[simp] theorem tick_work : (tick s).work = s.work := rfl
@[simp] theorem tick_wait : (tick s).wait = if s.busy then s.wait - 1 else s.wait := rfl
@[simp] theorem tick_draws : (tick s).draws = s.draws := rfl
@[simp] theorem tick_rstN : (tick s).rstN = s.rstN := rfl
@[simp] theorem tick_host : (tick s).host = s.host := rfl

/-! `setTemp` -/

@[simp] theorem setTemp_busy (k : Fin 8) (v : Word) : (setTemp k v s).busy = s.busy := rfl
@[simp] theorem setTemp_wib (k : Fin 8) (v : Word) : (setTemp k v s).wib = s.wib := rfl
@[simp] theorem setTemp_err (k : Fin 8) (v : Word) : (setTemp k v s).err = s.err := rfl
@[simp] theorem setTemp_errIdx (k : Fin 8) (v : Word) : (setTemp k v s).errIdx = s.errIdx := rfl
@[simp] theorem setTemp_codeIn (k : Fin 8) (v : Word) : (setTemp k v s).codeIn = s.codeIn := rfl
@[simp] theorem setTemp_result (k : Fin 8) (v : Word) : (setTemp k v s).result = s.result := rfl
@[simp] theorem setTemp_csLen (k : Fin 8) (v : Word) : (setTemp k v s).csLen = s.csLen := rfl
@[simp] theorem setTemp_dstLen (k : Fin 8) (v : Word) : (setTemp k v s).dstLen = s.dstLen := rfl
@[simp] theorem setTemp_src (k : Fin 8) (v : Word) : (setTemp k v s).src = s.src := rfl
@[simp] theorem setTemp_dst (k : Fin 8) (v : Word) : (setTemp k v s).dst = s.dst := rfl
@[simp] theorem setTemp_stage (k : Fin 8) (v : Word) : (setTemp k v s).stage = s.stage := rfl
@[simp] theorem setTemp_cs (k : Fin 8) (v : Word) : (setTemp k v s).cs = s.cs := rfl
@[simp] theorem setTemp_pend (k : Fin 8) (v : Word) : (setTemp k v s).pend = s.pend := rfl
@[simp] theorem setTemp_work (k : Fin 8) (v : Word) : (setTemp k v s).work = s.work := rfl
@[simp] theorem setTemp_wait (k : Fin 8) (v : Word) : (setTemp k v s).wait = s.wait := rfl
@[simp] theorem setTemp_draws (k : Fin 8) (v : Word) : (setTemp k v s).draws = s.draws := rfl
@[simp] theorem setTemp_rstN (k : Fin 8) (v : Word) : (setTemp k v s).rstN = s.rstN := rfl
@[simp] theorem setTemp_host (k : Fin 8) (v : Word) :
    (setTemp k v s).host = { s.host with temps := s.host.temps.set k v, place := s.host.place + 1 } := rfl

/-! `goTo` -/

@[simp] theorem goTo_busy (p : Nat) : (goTo p s).busy = s.busy := rfl
@[simp] theorem goTo_wib (p : Nat) : (goTo p s).wib = s.wib := rfl
@[simp] theorem goTo_err (p : Nat) : (goTo p s).err = s.err := rfl
@[simp] theorem goTo_errIdx (p : Nat) : (goTo p s).errIdx = s.errIdx := rfl
@[simp] theorem goTo_codeIn (p : Nat) : (goTo p s).codeIn = s.codeIn := rfl
@[simp] theorem goTo_result (p : Nat) : (goTo p s).result = s.result := rfl
@[simp] theorem goTo_csLen (p : Nat) : (goTo p s).csLen = s.csLen := rfl
@[simp] theorem goTo_dstLen (p : Nat) : (goTo p s).dstLen = s.dstLen := rfl
@[simp] theorem goTo_src (p : Nat) : (goTo p s).src = s.src := rfl
@[simp] theorem goTo_dst (p : Nat) : (goTo p s).dst = s.dst := rfl
@[simp] theorem goTo_stage (p : Nat) : (goTo p s).stage = s.stage := rfl
@[simp] theorem goTo_cs (p : Nat) : (goTo p s).cs = s.cs := rfl
@[simp] theorem goTo_pend (p : Nat) : (goTo p s).pend = s.pend := rfl
@[simp] theorem goTo_work (p : Nat) : (goTo p s).work = s.work := rfl
@[simp] theorem goTo_wait (p : Nat) : (goTo p s).wait = s.wait := rfl
@[simp] theorem goTo_draws (p : Nat) : (goTo p s).draws = s.draws := rfl
@[simp] theorem goTo_rstN (p : Nat) : (goTo p s).rstN = s.rstN := rfl
@[simp] theorem goTo_host (p : Nat) : (goTo p s).host = { s.host with place := p } := rfl

/-! `placeCommand` -/

@[simp] theorem placeCommand_busy (w : Word) : (placeCommand w s).busy = true := rfl
@[simp] theorem placeCommand_wib (w : Word) : (placeCommand w s).wib = s.wib := rfl
@[simp] theorem placeCommand_err (w : Word) : (placeCommand w s).err = s.err := rfl
@[simp] theorem placeCommand_errIdx (w : Word) : (placeCommand w s).errIdx = s.errIdx := rfl
@[simp] theorem placeCommand_codeIn (w : Word) : (placeCommand w s).codeIn = s.codeIn := rfl
@[simp] theorem placeCommand_result (w : Word) : (placeCommand w s).result = s.result := rfl
@[simp] theorem placeCommand_csLen (w : Word) : (placeCommand w s).csLen = s.csLen := rfl
@[simp] theorem placeCommand_dstLen (w : Word) : (placeCommand w s).dstLen = s.dstLen := rfl
@[simp] theorem placeCommand_src (w : Word) : (placeCommand w s).src = s.src := rfl
@[simp] theorem placeCommand_dst (w : Word) : (placeCommand w s).dst = s.dst := rfl
@[simp] theorem placeCommand_stage (w : Word) : (placeCommand w s).stage = s.stage := rfl
@[simp] theorem placeCommand_cs (w : Word) : (placeCommand w s).cs = s.cs := rfl
@[simp] theorem placeCommand_pend (w : Word) : (placeCommand w s).pend = w := rfl
@[simp] theorem placeCommand_work (w : Word) : (placeCommand w s).work = s.work := rfl
@[simp] theorem placeCommand_wait (w : Word) : (placeCommand w s).wait = 0 := rfl
@[simp] theorem placeCommand_draws (w : Word) : (placeCommand w s).draws = s.draws := rfl
@[simp] theorem placeCommand_rstN (w : Word) : (placeCommand w s).rstN = s.rstN.dropWhile (fun high => !high) := rfl
@[simp] theorem placeCommand_host (w : Word) : (placeCommand w s).host = s.host := rfl

/-! `resetBlock` -/

@[simp] theorem resetBlock_busy : (resetBlock s).busy = false := rfl
@[simp] theorem resetBlock_wib : (resetBlock s).wib = false := rfl
@[simp] theorem resetBlock_err : (resetBlock s).err = .ok := rfl
@[simp] theorem resetBlock_errIdx : (resetBlock s).errIdx = 0 := rfl
@[simp] theorem resetBlock_codeIn : (resetBlock s).codeIn = 0 := rfl
@[simp] theorem resetBlock_result : (resetBlock s).result = 0 := rfl
@[simp] theorem resetBlock_csLen : (resetBlock s).csLen = 0 := rfl
@[simp] theorem resetBlock_dstLen : (resetBlock s).dstLen = 0 := rfl
@[simp] theorem resetBlock_src : (resetBlock s).src = zeroBytes 16 := rfl
@[simp] theorem resetBlock_dst : (resetBlock s).dst = zeroBytes 16 := rfl
@[simp] theorem resetBlock_stage : (resetBlock s).stage = zeroBytes 64 := rfl
@[simp] theorem resetBlock_cs : (resetBlock s).cs = zeroBytes 64 := rfl
@[simp] theorem resetBlock_pend : (resetBlock s).pend = 0 := rfl
@[simp] theorem resetBlock_wait : (resetBlock s).wait = 0 := rfl
@[simp] theorem resetBlock_draws : (resetBlock s).draws = s.draws + 1 := rfl
@[simp] theorem resetBlock_rstN : (resetBlock s).rstN = s.rstN := rfl
@[simp] theorem resetBlock_host : (resetBlock s).host = s.host := rfl

end Sys2Proof.Machine
end

