-- ==== Sys2Proof/Laws/Ops.lean ====
section
/-! SUPPORT. What each shared operation, each meaning and the step can do, said once. -/

namespace Sys2Proof.Machine

/-! The end of a command -/

@[simp] theorem succeed_eq (s : State) : succeed s = .next (commitWith .ok 0 s) := rfl

@[simp] theorem raise_eq (e : Err) (idx : Nat) (s : State) : raise e idx s = .next (commitWith e idx s) := rfl

/-! Host accesses -/

/-- A write while BUSY: WIB is set at a writable register, nothing happens at any other. -/
theorem writeReg_busy (r : Reg) (v : Word) {s : State} (h : s.busy = true) :
    writeReg r v s = if r.writable then dropWrite s else s := by
  cases r <;> simp [writeReg, Reg.writable, putReg, h]

/-- A write while idle goes through. -/
theorem writeReg_idle (r : Reg) (v : Word) {s : State} (h : s.busy = false) : writeReg r v s = putReg r v s := by
  simp [writeReg, h]

/-- Everything a host write can do. -/
theorem writeReg_cases (r : Reg) (v : Word) (s : State) :
    writeReg r v s = s ∨
    (s.busy = true ∧ r.writable = true ∧ writeReg r v s = dropWrite s) ∨
    (s.busy = false ∧ r = .cmd ∧ writeReg r v s = accept v s) ∨
    (s.busy = false ∧ r = .codeIn ∧ writeReg r v s = setCodeIn v s) ∨
    (s.busy = false ∧ ∃ w, r = .src w ∧ writeReg r v s = setSrcWord w v s) ∨
    (s.busy = false ∧ ∃ w, r = .stage w ∧ writeReg r v s = setStageWord w v s) := by
  cases hb : s.busy <;> cases r <;> simp [writeReg, putReg, Reg.writable, hb]

@[simp] theorem regAt_regIndex (r : Reg) : regAt (regIndex r) = r := by
  cases r with
  | cmd => rfl
  | status => rfl
  | codeIn => rfl
  | result => rfl
  | csLen => rfl
  | dstLen => rfl
  | reserved k => revert k; decide
  | src w => revert w; decide
  | dst w => revert w; decide
  | stage w => revert w; decide

/-- A host write through the address lines of a register. -/
@[simp] theorem memWrite_regIndex (r : Reg) (v : Word) (s : State) : memWrite (regIndex r) v s = writeReg r v s := by
  simp [memWrite]

/-- A host read through the address lines of a register. -/
@[simp] theorem memRead_regIndex (r : Reg) (s : State) : memRead (regIndex r) s = readReg r s := by
  simp [memRead]

/-! The host's turn -/

/-- Everything one host operation can do: a bus write, then the host moves on, or only the host changes. -/
theorem hostTurn_cases (inReset : Bool) (s : State) :
    (nextHostOp s = none ∧ hostTurn inReset s = s) ∨
    (∃ r v, nextHostOp s = some (.wr r v) ∧
      hostTurn inReset s = goTo (s.host.place + 1) (busWrite inReset r (hostValue v s.host) s)) ∨
    (∃ k r, nextHostOp s = some (.rd k r) ∧ hostTurn inReset s = setTemp k (busRead inReset r s) s) ∨
    (∃ k j v, nextHostOp s = some (.and k j v) ∧
      hostTurn inReset s = setTemp k (s.host.temps[j] &&& hostValue v s.host) s) ∨
    (∃ k t, nextHostOp s = some (.bnz k t) ∧
      hostTurn inReset s = goTo (if s.host.temps[k] ≠ 0 then t else s.host.place + 1) s) := by
  unfold hostTurn
  cases h : nextHostOp s with
  | none => simp
  | some op => cases op <;> simp [hostOp]

/-- In reset the host changes nothing but itself. -/
theorem hostTurn_inReset (s : State) : ∃ h, hostTurn true s = { s with host := h } := by
  unfold hostTurn
  cases nextHostOp s with
  | none => exact ⟨s.host, rfl⟩
  | some op => cases op <;> exact ⟨_, rfl⟩

/-! The meanings -/

/-- Every command commits: a next state with BUSY = 0. -/
theorem exec_commits (i : Instr) (s : State) : ∃ e idx u, exec i s = .next (commitWith e idx u) := by
  cases i with
  | nop => exact ⟨.ok, 0, s, rfl⟩
  | config n => exact ⟨.ok, 0, configured n s, rfl⟩
  | loaddef => exact ⟨.ok, 0, _, rfl⟩
  | maxchars => exact ⟨.ok, 0, _, rfl⟩
  | encode n =>
    show ∃ e idx u, execEncode n s = _
    unfold execEncode commitSummed
    split
    · exact ⟨_, _, _, rfl⟩
    split
    · exact ⟨_, _, _, rfl⟩
    split <;> exact ⟨_, _, _, rfl⟩
  | decode zf =>
    show ∃ e idx u, execDecode zf s = _
    unfold execDecode commitEmitted
    split
    · exact ⟨_, _, _, rfl⟩
    split <;> exact ⟨_, _, _, rfl⟩

/-- Everything ENCODE n can do. -/
theorem execEncode_cases (n : Nat) (s : State) :
    (setLength s = 0 ∧ execEncode n s = .next (commitWith .invalidCharset 0 s)) ∨
    (setLength s ≠ 0 ∧ maxC (setLength s) < n ∧ execEncode n s = .next (commitWith .lengthExceeded 0 s)) ∨
    (setLength s ≠ 0 ∧ n ≤ maxC (setLength s) ∧ ∃ r, r = sumDigits (setLength s) s.cs s.src n 0 0 ∧
      ((r.err = .ok ∧ execEncode n s = .next (commitWith .ok 0 (setResult r.acc (setSummed r s)))) ∨
       (r.err = .invalidSymbol ∧ execEncode n s = .next (commitWith .invalidSymbol r.pos (setSummed r s))) ∨
       (r.err = .overflow ∧ execEncode n s = .next (commitWith .overflow 0 (setSummed r s))))) := by
  unfold execEncode
  by_cases h0 : setLength s = 0
  · simp [h0]
  by_cases h1 : maxC (setLength s) < n
  · simp [h0, h1]
  refine .inr (.inr ⟨h0, by omega, _, rfl, ?_⟩)
  rw [if_neg h0, if_neg h1]
  have hr := sumDigits_err (setLength s) s.cs s.src n 0 0
  generalize sumDigits (setLength s) s.cs s.src n 0 0 = r at hr ⊢
  rcases hr with h | h | h <;> simp [commitSummed, h]

/-- Everything DECODE can do. -/
theorem execDecode_cases (zf : Bool) (s : State) :
    (setLength s = 0 ∧ execDecode zf s = .next (commitWith .invalidCharset 0 s)) ∨
    (setLength s ≠ 0 ∧
      ∃ r, r = emitDigits (setLength s) zf s.cs (maxC (setLength s)) s.codeIn.toNat ∧
        execDecode zf s = .next (commitWith (if r.rem = 0 then .ok else .lengthExceeded) 0
          (setEmitted r (setEmittedWork r s)))) := by
  unfold execDecode
  by_cases h0 : setLength s = 0
  · simp [h0]
  refine .inr ⟨h0, _, rfl, ?_⟩
  rw [if_neg h0]
  generalize emitDigits (setLength s) zf s.cs (maxC (setLength s)) s.codeIn.toNat = r
  by_cases h : r.rem = 0 <;> simp [commitEmitted, h]

/-- CONFIG: a legal length builds the staged set, any other makes the codec inert. -/
theorem execConfig_cases (n : Nat) (s : State) :
    (legalLength n = true ∧
      execConfig n s = .next (commitWith .ok 0 (setCodec (characterSet n (byteAt s.stage)) n s))) ∨
    (legalLength n = false ∧ execConfig n s = .next (commitWith .ok 0 (setCodec (zeroBytes 64) 0 s))) := by
  cases h : legalLength n <;> simp [execConfig, configured, h]

/-! The step -/

/-- Every pending word commits: a next state with BUSY = 0. -/
theorem commitPending_commits (s : State) : ∃ e idx u, commitPending s = .next (commitWith e idx u) := by
  unfold commitPending
  split
  · exact exec_commits _ s
  · exact ⟨_, _, _, rfl⟩

/-- Everything a step can do. -/
theorem step_cases (s : State) :
    (resetIsLow s = true ∧ step s = .next (hostTurn true (resetBlock (takeSample s)))) ∨
    (resetIsLow s = false ∧ commitIsDue s = true ∧ step s = commitPending (takeSample s)) ∨
    (resetIsLow s = false ∧ commitIsDue s = false ∧ step s = .next (hostTurn false (tick (takeSample s)))) := by
  unfold step
  cases resetIsLow s <;> cases commitIsDue s <;> simp

end Sys2Proof.Machine
end

