-- ==== Sys2Proof/Laws/PerInstr.lean ====
section
/-! SUPPORT. The family `Fields`: what stands in each field of a command's word, one lemma per command. -/

namespace Sys2Proof.Laws.Fields

/-- OP of a command (30_encoding.md R81). -/
def op : Instr → BitVec 4
  | .nop => 0x0
  | .config _ => 0x1
  | .loaddef => 0x2
  | .maxchars => 0x3
  | .encode _ => 0x4
  | .decode _ => 0x5

/-- N of a command, 0 where it has none (30_encoding.md R82, R85). -/
def length : Instr → Nat
  | .nop => 0
  | .config n => n
  | .loaddef => 0
  | .maxchars => 0
  | .encode n => n
  | .decode _ => 0

/-- ZF of a command, 0 where it has none (30_encoding.md R83, R85). -/
def zeroFill : Instr → Bool
  | .nop => false
  | .config _ => false
  | .loaddef => false
  | .maxchars => false
  | .encode _ => false
  | .decode zf => zf

/-- The word of a command that assembles holds its OP, ZF and N, and 0 in the reserved bits (30_encoding.md R80). -/
def Statement (i : Instr) : Prop :=
  i.wellFormed = true →
    opField (encode i) = op i ∧ zfField (encode i) = zeroFill i ∧ lowReserved (encode i) = 0 ∧
    (nField (encode i)).toNat = length i ∧ highReserved (encode i) = 0

/-- The fields of a word that is `k` with a length in bits 14:8. -/
theorem fields_of_length (k : BitVec 4) (n : Nat) (h : n < 128) :
    opField (k.setWidth 32 ||| (BitVec.ofNat 32 n <<< 8)) = k ∧
    zfField (k.setWidth 32 ||| (BitVec.ofNat 32 n <<< 8)) = false ∧
    lowReserved (k.setWidth 32 ||| (BitVec.ofNat 32 n <<< 8)) = 0 ∧
    (nField (k.setWidth 32 ||| (BitVec.ofNat 32 n <<< 8))).toNat = n ∧
    highReserved (k.setWidth 32 ||| (BitVec.ofNat 32 n <<< 8)) = 0 := by
  have key : ∀ m : Fin 128, ∀ k : BitVec 4,
      opField (k.setWidth 32 ||| (BitVec.ofNat 32 m.val <<< 8)) = k ∧
      zfField (k.setWidth 32 ||| (BitVec.ofNat 32 m.val <<< 8)) = false ∧
      lowReserved (k.setWidth 32 ||| (BitVec.ofNat 32 m.val <<< 8)) = 0 ∧
      (nField (k.setWidth 32 ||| (BitVec.ofNat 32 m.val <<< 8))).toNat = m.val ∧
      highReserved (k.setWidth 32 ||| (BitVec.ofNat 32 m.val <<< 8)) = 0 := by decide +kernel
  exact key ⟨n, h⟩ k

theorem nop : Statement .nop := fun _ => by decide

theorem config (n : Nat) : Statement (.config n) := fun h =>
  fields_of_length 0x1 n (of_decide_eq_true h)

theorem loaddef : Statement .loaddef := fun _ => by decide

theorem maxchars : Statement .maxchars := fun _ => by decide

theorem encode (n : Nat) : Statement (.encode n) := fun h =>
  fields_of_length 0x4 n (of_decide_eq_true h)

theorem decode (zf : Bool) : Statement (.decode zf) := fun _ => by cases zf <;> decide

end Sys2Proof.Laws.Fields
end

