-- ==== Sys2Proof/Laws/Run.lean ====
section
/-! SUPPORT. Runs of several steps. -/

namespace Sys2Proof.Machine

/-- The host interface's run, one step at a time. -/
theorem run_succ (M : Host.Core) {k : Nat} {s u : M.State} (h : M.step s = .next u) : M.run (k + 1) s = M.run k u := by
  simp [Host.Core.run, h]

/-- `AfterSteps` is the host interface's run. -/
theorem AfterSteps.run {k : Nat} {s t : State} (h : AfterSteps k s t) :
    Host.Core.run Sys2Proof.core k s = .next t := by
  induction k generalizing s with
  | zero => exact congrArg Host.Outcome.next h
  | succ k ih =>
    obtain ⟨u, hu, hr⟩ := h
    exact (run_succ Sys2Proof.core hu).trans (ih hr)

/-- Runs follow one another. -/
theorem AfterSteps.trans {j k : Nat} {s t u : State} (h : AfterSteps j s t) (h' : AfterSteps k t u) :
    AfterSteps (j + k) s u := by
  induction j generalizing s with
  | zero => cases h; rwa [Nat.zero_add]
  | succ j ih =>
    obtain ⟨v, hv, hr⟩ := h
    rw [Nat.succ_add]
    exact ⟨v, hv, ih hr⟩

end Sys2Proof.Machine
end

