-- ==== Sys2Proof/Tests/Slice0.lean ====
section
/-! SUPPORT. Tests. Expected values are the spec's: the words of 30_encoding.md, the tables of 20_memory.md and the vectors
of 95_test_vectors.md, named at each test. The witnesses at the end show, for each statement that has hypotheses, a concrete
case that meets them. -/

namespace Sys2Proof.Machine.Tests

set_option Elab.async false

/-! ## Helpers -/

/-- The next state of an outcome, if it is one. -/
def next? : Host.Outcome State Fault Refusal → Option State
  | .next t => some t
  | .fault _ => none
  | .refused _ => none

/-- The next state of an outcome; a state that no test expects where there is none. -/
def after (o : Host.Outcome State Fault Refusal) : State := (next? o).getD { State.reset with codeIn := 0xBAD }

/-- A command's meaning, then the next state. -/
def run (i : Instr) (s : State) : State := after (exec i s)

/-- SRC or STAGE words written by the host, from word 0 on. -/
def wrSrc : List (Fin 4 × Word) → State → State
  | [], s => s
  | (w, v) :: rest, s => wrSrc rest (memWrite (regIndex (.src w)) v s)
def wrStage : List (Fin 16 × Word) → State → State
  | [], s => s
  | (w, v) :: rest, s => wrStage rest (memWrite (regIndex (.stage w)) v s)

/-- DEF of 95_test_vectors.md. -/
def defState : State := run .loaddef State.reset
/-- HEX of 95_test_vectors.md. -/
def hexState : State :=
  run (.config 16) (wrStage [(0, 0x33323130), (1, 0x37363534), (2, 0x42413938), (3, 0x46454443)] State.reset)
/-- DUP of 95_test_vectors.md: "0012345678". -/
def dupState : State :=
  run (.config 10) (wrStage [(0, 0x32313030), (1, 0x36353433), (2, 0x00003837)] State.reset)

/-- `s` with a host program of one operation, at its first operation. -/
def withOp (op : HostOp) (s : State) : State := { s with host := { s.host with program := [op], place := 0 } }

/-- A state whose outstanding command is `w`, with `n` steps to pass before its commit. -/
def outstanding (w : Word) (n : Nat) (s : State) : State := { placeCommand w s with wait := n }

/-! ## Well-formedness: each check refuses an ill-formed command -/

theorem test_config_length_too_long : (Instr.config 128).wellFormed = false := by decide
theorem test_encode_length_too_long : (Instr.encode 128).wellFormed = false := by decide
theorem test_longest_lengths_fit : (Instr.config 127).wellFormed ∧ (Instr.encode 127).wellFormed := by decide

/-! ## Decoding: words written out from the fields of 30_encoding.md R80: bits 31:15, N, bits 7:5, ZF, OP -/

theorem test_decode_nop : decode 0b00000000000000000_0000000_000_0_0000 = .instr .nop := by decide
theorem test_decode_config : decode 0b00000000000000000_0010000_000_0_0001 = .instr (.config 16) := by decide
theorem test_decode_config_longest : decode 0b00000000000000000_1111111_000_0_0001 = .instr (.config 127) := by decide
theorem test_decode_loaddef : decode 0b00000000000000000_0000000_000_0_0010 = .instr .loaddef := by decide
theorem test_decode_maxchars : decode 0b00000000000000000_0000000_000_0_0011 = .instr .maxchars := by decide
theorem test_decode_encode : decode 0b00000000000000000_0000011_000_0_0100 = .instr (.encode 3) := by decide
theorem test_decode_decode : decode 0b00000000000000000_0000000_000_0_0101 = .instr (.decode false) := by decide
theorem test_decode_decode_z : decode 0b00000000000000000_0000000_000_1_0101 = .instr (.decode true) := by decide
/-- The illegal words of 95_test_vectors.md §2.4. -/
theorem test_illegal_words :
    decode 0x00000006 = .illegal .reservedOp ∧ decode 0x0000000F = .illegal .reservedOp ∧
    decode 0x00000013 = .illegal .strayZeroFill ∧ decode 0x00000020 = .illegal .reservedBits ∧
    decode 0x00000102 = .illegal .strayLength ∧ decode 0x00000025 = .illegal .reservedBits ∧
    decode 0x00008005 = .illegal .reservedBits ∧ decode 0x80000004 = .illegal .reservedBits := by decide
/-- The examples of 30_encoding.md R90. -/
theorem test_encode_words :
    encode (.config 40) = 0x00002801 ∧ encode (.encode 7) = 0x00000704 ∧ encode (.decode true) = 0x00000015 := by decide
theorem test_table_word : decodeTableWord 32 0x00001001 = some (.config 16) ∧ decodeTableWord 32 0x6 = none := by decide
/-- The syntax of 30_encoding.md R90. -/
theorem test_spelling : spell (.config 16) = "CONFIG 16" ∧ spell (.decode true) = "DECODE.Z" := by decide

/-! ## The ROMs: rows of 20_memory.md R61, R65 -/

theorem test_rom_rows : powerRow 16 = [1, 16, 256, 4096, 65536, 1048576, 16777216, 268435456] ∧
    powerRow 40 = [1, 40, 1600, 64000, 2560000, 102400000, 4096000000] := by decide
theorem test_rom_last_entries : pwr 11 9 = 2357947691 ∧ pwr 15 8 = 2562890625 ∧ pwr 64 5 = 1073741824 := by decide
theorem test_rom_padding : romWord 68 = 0 ∧ romWord 67 = 268435456 := by decide
theorem test_default_symbols : defaultSymbol 2 = 0x42 ∧ defaultSymbol 26 = 0x5A ∧ defaultSymbol 39 = 0x2F := by decide

/-! ## The commands: 95_test_vectors.md §1 and §2 -/

/-- NOP from STATUS = 0x00000022. -/
theorem test_nop : statusWord (run .nop { defState with err := .lengthExceeded }) = 0x00000002 := by decide +kernel
theorem test_config_inert : (run (.config 9) defState).csLen = 0 ∧ byteAt (run (.config 9) defState).cs 0 = 0 := by
  decide +kernel
theorem test_config_keeps_the_first_symbols : hexState.csLen = 16 ∧ byteAt hexState.cs 15 = 0x46 := by decide +kernel
theorem test_loaddef : defState.csLen = 40 ∧ byteAt defState.cs 39 = 0x2F ∧ byteAt defState.cs 40 = 0x00 := by
  decide +kernel
theorem test_maxchars : (run .maxchars defState).result = 6 ∧ (run .maxchars hexState).result = 7 := by decide +kernel
theorem test_maxchars_inert : (run .maxchars { State.reset with result := 5 }).result = 0 := by decide +kernel
/-- S5. -/
theorem test_encode_sum : (run (.encode 3) (wrSrc [(0, 0x00412020)] defState)).result = 1600 := by decide +kernel
/-- "Aa" on the default set: the index of the missing symbol is in STATUS (program P4). -/
theorem test_encode_missing_symbol :
    statusWord (run (.encode 2) (wrSrc [(0, 0x00006141)] defState)) = 0x00000132 := by decide +kernel
/-- S10. -/
theorem test_decode_zero_filled :
    readReg (.dst 0) (run (.decode true) { hexState with codeIn := 254 }) = 0x30304645 ∧
    readReg (.dst 1) (run (.decode true) { hexState with codeIn := 254 }) = 0x00303030 := by decide +kernel
/-- HEX, 16^7: seven zero digits and LENGTH_EXCEEDED. -/
theorem test_decode_too_long :
    (run (.decode false) { hexState with codeIn := 268435456 }).dstLen = 7 ∧
    (run (.decode false) { hexState with codeIn := 268435456 }).err = .lengthExceeded := by decide +kernel
/-- DUP: the first position wins, and the code 1 decodes to "0". -/
theorem test_duplicates :
    (run (.encode 1) (wrSrc [(0, 0x00000031)] dupState)).result = 2 ∧
    byteAt (run (.decode false) { dupState with codeIn := 1 }).dst 0 = 0x30 := by decide +kernel

/-! ## The window, the host and reset: 95_test_vectors.md §2.5 -/

theorem test_byte_lanes : byteAt (memWrite (regIndex (.src 0)) 0xDDCCBBAA State.reset).src 0 = 0xAA ∧
    byteAt (memWrite (regIndex (.src 0)) 0xDDCCBBAA State.reset).src 3 = 0xDD := by decide +kernel
theorem test_busy_write_is_dropped : (memWrite (regIndex (.src 0)) 7 (outstanding 0 3 State.reset)).wib = true := by decide
theorem test_cmd_reads_zero : memRead (regIndex .cmd) (memWrite (regIndex .cmd) 0x304 State.reset) = 0 := by decide
theorem test_first_instruction_runs :
    (next? (step (State.reset.withFetchWord 32 0x2))).map (·.csLen) = some 40 := by decide +kernel
theorem test_reset_cycle_abandons_the_command :
    (next? (step { outstanding 0x2 0 State.reset with rstN := [false] })).map (fun t => (t.busy, t.csLen)) =
      some (false, 0) := by decide +kernel
/-- 30_encoding.md R92. -/
theorem test_run_expands : assemble [.run 0x2, .wrstrSrc [0x45, 0x46]] =
    some [.wr .cmd (.imm 0x2), .rd 7 .status, .and 7 7 (.imm 1), .bnz 7 1, .wr (.src 0) (.imm 0x00004645)] := by decide
/-- A label of program P4: the branch skips one write. -/
theorem test_label : assemble [.bnz 1 9, .wr .cmd (.imm 0), .label 9, .wait] =
    some [.bnz 1 2, .wr .cmd (.imm 0), .rd 7 .status, .and 7 7 (.imm 1), .bnz 7 2] := by decide

/-! ## Witnesses

One concrete case for the hypotheses of each statement, and for each clause at the ends of its range. -/

/-- A named field of a next state has a given value: there is that next state. -/
theorem next_of {α : Type} {o : Host.Outcome State Fault Refusal} {f : State → α} {v : α}
    (h : (next? o).map f = some v) : ∃ t, o = .next t ∧ f t = v := by
  cases o with
  | next t => exact ⟨t, rfl, Option.some.inj h⟩
  | fault r => cases h
  | refused r => cases h

/-- DecodeReadsWhatEncodeWrites. -/
theorem witness_wellFormed : (Instr.config 0).wellFormed ∧ (Instr.config 127).wellFormed ∧ (Instr.encode 0).wellFormed ∧
    (Instr.encode 127).wellFormed ∧ (Instr.decode true).wellFormed := by decide

/-- LegalWordHasOneSpelling, EachCommandHasItsRowOfTheTable: a legal word, and its row. -/
theorem witness_legal_word : decode 0x00007F01 = .instr (.config 127) ∧ (⟨0x00000001, 0xFFFF80FF⟩ : OpcodeRow) ∈ opcodeRows ∧
    (⟨0x00000001, 0xFFFF80FF⟩ : OpcodeRow).accepts 0x00007F01 = true := by decide

/-- IllegalWordsCommitIllegalCmd, AcceptanceLatchesTheWord: an illegal word of each kind. -/
theorem witness_illegal : NoCommand 0x6 ∧ NoCommand 0xF ∧ NoCommand 0x8000 ∧ NoCommand 0x20 ∧ NoCommand 0x80 ∧
    NoCommand 0x102 ∧ NoCommand 0x13 := by unfold NoCommand; decide

/-- IllegalWordsCommitIllegalCmd: an illegal word about to commit, and an idle block to write it to. -/
theorem witness_illegal_commits : NoCommand (outstanding 0x6 0 State.reset).pend ∧
    CommitsNext (outstanding 0x6 0 State.reset) ∧ State.reset.busy = false := by
  unfold NoCommand CommitsNext; decide

/-- WindowIsTheAlignedBlockAtBase: an address that selects a word, the last of the window. -/
theorem witness_window : windowSelect (windowAddress (.stage 15)) = some 31 := by
  have h : windowBase ≤ windowBase + 124 ∧ windowBase + 124 ≤ windowBase + 0x7F ∧ (windowBase + 124) % 4 = 0 := by
    refine ⟨by omega, by omega, ?_⟩
    unfold windowBase; omega
  show windowSelect (windowBase + 124) = _
  unfold windowSelect
  rw [if_pos h, Nat.add_sub_cancel_left]
  rfl

/-- WritesObeyTheWindowRule, AcceptanceLatchesTheWord, WrittenOperandsReadBack, BufferBytesSitInTheirLanes,
CommandsWriteOnlyWhatTheTableSays: idle and busy blocks, and registers of each kind. -/
theorem witness_idle_and_busy : State.reset.busy = false ∧ (outstanding 0x3 1 State.reset).busy = true ∧
    (Reg.stage 15).writable = true ∧ (Reg.codeIn).writable = true ∧ Reg.stage 15 ≠ .cmd ∧ (Reg.dst 3).writable = false ∧
    (Reg.reserved 1).writable = false := by decide

/-- WibIsStickyAndMarksDroppedWrites: WIB set by a dropped write, cleared by an acceptance, cleared by reset. -/
theorem witness_wib_set : HostsTurn (withOp (.wr (.src 3) (.imm 7)) (outstanding 0x3 2 State.reset)) ∧
    ∃ t, step (withOp (.wr (.src 3) (.imm 7)) (outstanding 0x3 2 State.reset)) = .next t ∧ t.wib = true :=
  ⟨by unfold HostsTurn; decide, next_of (by decide +kernel)⟩
theorem witness_wib_cleared : ∃ t, step (withOp (.wr .cmd (.imm 3)) { State.reset with wib := true }) = .next t ∧
    t.wib = false := next_of (by decide +kernel)
theorem witness_wib_reset : resetIsLow { State.reset with wib := true, rstN := [false] } = true ∧
    ∃ t, step { State.reset with wib := true, rstN := [false] } = .next t ∧ t.wib = false :=
  ⟨by decide, next_of (by decide +kernel)⟩

/-- A state that meets the invariant, with a valid codec: ValidTellsAnInertCodec, EveryStepKeepsTheInvariant. -/
theorem witness_invariant : defState.Inv where
  length_legal := .inr (by decide +kernel)
  set_padded := by
    have hL : setLength defState = 40 := by decide +kernel
    have hc : defState.cs = characterSet defaultLength defaultSymbol := rfl
    intro k hk
    rw [hL] at hk
    rw [hc, byteAt_characterSet, if_neg (by unfold defaultLength; omega)]
  output_short := by decide +kernel
  output_padded := fun k _ => byteAt_zeroBytes 16 k
  index_only_of_symbol := fun _ => rfl
  index_short := by decide +kernel
  never_overflow := by decide +kernel

/-- EveryStepKeepsTheInvariant: such a state, about to commit DECODE.Z, has a next state. -/
theorem witness_invariant_steps : (outstanding 0x15 0 defState).Inv ∧
    ∃ t, step (outstanding 0x15 0 defState) = .next t ∧ t.dstLen = 6 := by
  obtain ⟨a, b, c, d, e, f, g⟩ := witness_invariant
  exact ⟨⟨a, b, c, d, e, f, g⟩, next_of (by decide +kernel)⟩

/-- ReadsReturnTheRegisterAndChangeNothing, HostOperationsDoWhatTheNotationSays: the host's turn at each operation. -/
theorem witness_host_turns :
    (HostsTurn (withOp (.rd 0 .status) State.reset) ∧
      nextHostOp (withOp (.rd 0 .status) State.reset) = some (.rd 0 .status)) ∧
    (HostsTurn (withOp (.wr .codeIn (.tmp 1)) State.reset) ∧
      nextHostOp (withOp (.wr .codeIn (.tmp 1)) State.reset) = some (.wr .codeIn (.tmp 1))) ∧
    (HostsTurn (withOp (.and 1 0 (.imm 0x70)) State.reset) ∧
      nextHostOp (withOp (.and 1 0 (.imm 0x70)) State.reset) = some (.and 1 0 (.imm 0x70))) ∧
    (HostsTurn (withOp (.bnz 7 0) State.reset) ∧ nextHostOp (withOp (.bnz 7 0) State.reset) = some (.bnz 7 0)) := by
  unfold HostsTurn; decide

/-- PseudoInstructionsExpandAsListed: the longest strings. -/
theorem witness_strings : (List.replicate 16 (0x41 : Byte)).length ≤ 16 ∧ (List.replicate 64 (0x41 : Byte)).length ≤ 64 := by
  decide

/-- ResetCycleClearsTheBlock: rst_n low, with a read and with a write of the host. -/
theorem witness_reset_low : resetIsLow { withOp (.rd 0 .result) State.reset with rstN := [false] } = true ∧
    nextHostOp { withOp (.rd 0 .result) State.reset with rstN := [false] } = some (.rd 0 .result) ∧
    nextHostOp { withOp (.wr .cmd (.imm 2)) State.reset with rstN := [false] } = some (.wr .cmd (.imm 2)) := by decide

/-- InertUntilACodecIsConstructed: an inert codec; a LOADDEF, a CONFIG 10 and a CONFIG 64 that end it. -/
theorem witness_inert : InertCodec State.reset := rfl
theorem witness_inert_ends :
    (∃ t, step (outstanding 0x2 0 State.reset) = .next t ∧ t.csLen = 40) ∧
    (∃ t, step (outstanding 0xA01 0 State.reset) = .next t ∧ t.csLen = 10) ∧
    (∃ t, step (outstanding 0x4001 0 State.reset) = .next t ∧ t.csLen = 64) :=
  ⟨next_of (by decide +kernel), next_of (by decide +kernel), next_of (by decide +kernel)⟩

/-- PowerTableHoldsThePowers, MaxcIsTheLargestExponent, MaxcharsReturnsTheBound: the ends of every range of L
(20_memory.md R62). -/
theorem witness_bounds : [9, 10, 11, 12, 15, 16, 23, 24, 40, 41, 64, 65].map maxC = [0, 9, 9, 8, 8, 7, 7, 6, 6, 5, 5, 0] := by
  decide
theorem witness_bound_lengths : [10, 11, 12, 15, 16, 23, 24, 40, 41, 64].map (fun n => (run .maxchars
    { State.reset with csLen := BitVec.ofNat 7 n }).result) = [9, 9, 8, 8, 7, 7, 6, 6, 5, 5] := by decide +kernel

/-- DigitSumsStayBelow32Bits: the longest sequence of the largest digits, for the shortest set. -/
theorem witness_digits : (List.replicate 9 9).length ≤ maxC 10 ∧ ∀ d ∈ List.replicate 9 9, d ≤ 10 - 1 := by decide

/-- ConfigBuildsTheStagedSet: the lengths at each end of its clauses (41_codec_config.md R101). -/
theorem witness_config_lengths : [9, 10, 64, 65].map (fun n => (run (.config n) State.reset).csLen) = [0, 10, 64, 0] := by
  decide +kernel

/-- LoaddefLoadsTheDefaultSet: a staging buffer that holds the default set. -/
theorem witness_staged : ∀ k, k < 40 → byteAt (characterSet 40 defaultSymbol) k = defaultSymbol k := by
  intro k hk
  rw [byteAt_characterSet, if_pos ⟨hk, by omega⟩]

/-- A valid codec: EncodeBeyondMaxcFails (n = MAXC + 1), DecodeEmitsTheDigits. -/
theorem witness_valid : ValidCodec defState ∧ maxC (setLength defState) = 6 ∧ maxC (setLength defState) < 7 := by
  unfold ValidCodec; decide +kernel

/-- LookupFindsTheLowestPosition: a symbol that stands twice, and one that is missing. -/
theorem witness_lookup : lookup dupState.cs 10 0x30 = some 0 ∧ lookup dupState.cs 10 0x41 = none := by decide +kernel

/-- The position of each symbol of the default set, from `lookup`. -/
theorem inSet_of_lookup {s : State} {b : Byte} {d : Nat} (h : lookup s.cs (setLength s) b = some d) : InSet s b :=
  ⟨d, (lookup_sound h).1, (lookup_sound h).2⟩
theorem not_inSet_of_lookup {s : State} {b : Byte} (h : lookup s.cs (setLength s) b = none) : ¬ InSet s b :=
  fun ⟨_, hk, hb⟩ => lookup_none h hk hb

/-- SRC = "Aa" on the default set: the second symbol is missing. -/
def aaState : State := wrSrc [(0, 0x00006141)] defState
/-- EncodeReportsTheFirstMissingSymbol, ErrorCommitsArePrecise. -/
theorem witness_missing : ValidCodec aaState ∧ 2 ≤ maxC (setLength aaState) ∧ ¬ InSet aaState (byteAt aaState.src 1) ∧
    ∀ j, j < 1 → InSet aaState (byteAt aaState.src j) := by
  refine ⟨by unfold ValidCodec; decide +kernel, by decide +kernel, not_inSet_of_lookup (by decide +kernel), ?_⟩
  intro j hj
  obtain rfl : j = 0 := by omega
  exact inSet_of_lookup (d := 1) (by decide +kernel)

/-- SRC = "A  " on the default set. -/
def aState : State := wrSrc [(0, 0x00202041)] defState
/-- EncodeSumsTheDigits. -/
theorem witness_digits_found : ValidCodec aState ∧ 3 ≤ maxC (setLength aState) ∧
    ∀ i, i < 3 → lookup aState.cs (setLength aState) (byteAt aState.src i) = some ([1, 0, 0].getD i 0) := by
  unfold ValidCodec; decide +kernel
/-- EncodeNeverOverflows, EncodeReadsOnlyItsSymbols: an ENCODE 1 that completes, and a buffer that agrees with SRC on its
one symbol. -/
theorem witness_other_source : (∀ k, k < 1 → byteAt (wrSrc [(0, 0x61616141)] defState).src k = byteAt aState.src k) ∧
    ∃ t, exec (.encode 1) aState = .next t ∧ t.result = 1 :=
  ⟨by decide +kernel, next_of (by decide +kernel)⟩
/-- TrailingZeroSymbolsAreLost: one symbol, then two zero symbols. -/
theorem witness_trailing : (∀ k, 1 ≤ k → k < 3 → byteAt aState.src k = zeroSymbol aState) ∧
    ∃ t, exec (.encode 1) aState = .next t ∧ t.err = .ok := by
  refine ⟨?_, next_of (by decide +kernel)⟩
  intro k h1 h3
  obtain rfl | rfl : k = 1 ∨ k = 2 := by omega
  · decide +kernel
  · decide +kernel
/-- DecodeInvertsEncode: the default set is distinct, and the three symbols are in it. -/
theorem witness_round_trip : ValidCodec aState ∧ DistinctSymbols aState ∧ 3 ≤ maxC (setLength aState) ∧
    ∀ b ∈ srcString 3 aState, InSet aState b := by
  refine ⟨by unfold ValidCodec; decide +kernel, ?_, by decide +kernel, ?_⟩
  · have h : ∀ j : Fin 40, ∀ k : Fin 40, defaultSymbol j.val = defaultSymbol k.val → j = k := by decide +kernel
    have hL : setLength aState = 40 := by decide +kernel
    have hc : aState.cs = characterSet defaultLength defaultSymbol := rfl
    intro j k hj hk he
    rw [hL] at hj hk
    rw [hc, byteAt_characterSet, byteAt_characterSet, if_pos ⟨hj, by omega⟩, if_pos ⟨hk, by omega⟩] at he
    exact congrArg Fin.val (h ⟨j, hj⟩ ⟨k, hk⟩ he)
  · have h : srcString 3 aState = [0x41, 0x20, 0x20] := by decide +kernel
    rw [h]
    intro b hb
    simp only [List.mem_cons, List.not_mem_nil, or_false] at hb
    rcases hb with rfl | rfl | rfl
    · exact inSet_of_lookup (d := 1) (by decide +kernel)
    · exact inSet_of_lookup (d := 0) (by decide +kernel)
    · exact inSet_of_lookup (d := 0) (by decide +kernel)

/-- DecodeEmitsTheDigits: codes on both sides of 40^6 (95_test_vectors.md §2.3). -/
theorem witness_code_bounds : setLength defState ^ maxC (setLength defState) ≤ (4096000000 : Word).toNat ∧
    (4095999999 : Word).toNat < setLength defState ^ maxC (setLength defState) := by decide +kernel

/-- EachCommitReportsTheFirstCause, ErrorCommitsArePrecise, HostAndEngineKeepToTheirRegisters: a commit of each outcome. -/
theorem witness_outcomes :
    (CommitsNext (outstanding 0x6 0 aaState) ∧ ∃ t, step (outstanding 0x6 0 aaState) = .next t ∧ t.err = .illegalCmd) ∧
    (CommitsNext (outstanding 0x4 0 State.reset) ∧
      ∃ t, step (outstanding 0x4 0 State.reset) = .next t ∧ t.err = .invalidCharset) ∧
    (CommitsNext (outstanding 0x704 0 aaState) ∧
      ∃ t, step (outstanding 0x704 0 aaState) = .next t ∧ t.err = .lengthExceeded) ∧
    (CommitsNext (outstanding 0x204 0 aaState) ∧
      ∃ t, step (outstanding 0x204 0 aaState) = .next t ∧ t.err = .invalidSymbol) ∧
    (CommitsNext (outstanding 0x5 0 { defState with codeIn := 4096000000 }) ∧
      ∃ t, step (outstanding 0x5 0 { defState with codeIn := 4096000000 }) = .next t ∧ t.err = .lengthExceeded) := by
  refine ⟨⟨?_, next_of ?_⟩, ⟨?_, next_of ?_⟩, ⟨?_, next_of ?_⟩, ⟨?_, next_of ?_⟩, ⟨?_, next_of ?_⟩⟩ <;>
    first
    | (unfold CommitsNext; decide +kernel)
    | decide +kernel

/-- AFailedCommandFailsAgain. -/
theorem witness_failed : ∃ t, commitPending (outstanding 0x204 0 aaState) = .next t ∧ t.err = .invalidSymbol :=
  next_of (by decide +kernel)

/-- StepRunsTheDecodedCommand. -/
theorem witness_decoded : CommitsNext (outstanding 0x304 0 aState) ∧
    decode (outstanding 0x304 0 aState).pend = .instr (.encode 3) := by
  unfold CommitsNext; decide +kernel

/-- RegistersChangeOnlyWhereTheRulesSay: a change of each register, out of reset; of WIB, witness_wib_set. -/
theorem witness_changes_at_commit :
    (∃ t, step (outstanding 0x3 0 defState) = .next t ∧
      (t.result, t.err, t.busy) = (6, .ok, false)) ∧
    (∃ t, step (outstanding 0x2 0 State.reset) = .next t ∧ (t.csLen, byteAt t.cs 0) = (40, 0x20)) ∧
    (∃ t, step (outstanding 0x15 0 defState) = .next t ∧ (t.dstLen, byteAt t.dst 0) = (6, 0x20)) :=
  ⟨next_of (by decide +kernel), next_of (by decide +kernel), next_of (by decide +kernel)⟩
theorem witness_changes_by_host :
    (∃ t, step (withOp (.wr .codeIn (.imm 9)) State.reset) = .next t ∧ t.codeIn = 9) ∧
    (∃ t, step (withOp (.wr (.src 3) (.imm 9)) State.reset) = .next t ∧ byteAt t.src 12 = 9) ∧
    (∃ t, step (withOp (.wr (.stage 15) (.imm 9)) State.reset) = .next t ∧ byteAt t.stage 60 = 9) ∧
    (∃ t, step (withOp (.wr .cmd (.imm 9)) State.reset) = .next t ∧ (t.pend, t.busy) = (9, true)) :=
  ⟨next_of (by decide +kernel), next_of (by decide +kernel), next_of (by decide +kernel), next_of (by decide +kernel)⟩

/-- EveryAcceptedCommandCommits: two steps to pass, rst_n high at each sample. -/
theorem witness_accepted : (outstanding 0x3 2 State.reset).busy = true ∧
    ∀ high ∈ ({ outstanding 0x3 2 State.reset with rstN := [true, true, true, false] } : State).rstN.take (2 + 1),
      high = true := by decide

/-- WaitLoopsEnd: a host at the first operation of `WAIT`. -/
def waiting : State := { outstanding 0x3 4 defState with
  host := { program := waitOps 0, place := 0, temps := Vector.replicate 8 0 } }
theorem witness_waiting : waiting.busy = true ∧ waiting.rstN = [] ∧ waiting.host.place = 0 ∧
    waiting.host.program[0]? = some (.rd 7 .status) ∧ waiting.host.program[0 + 1]? = some (.and 7 7 (.imm 1)) ∧
    waiting.host.program[0 + 2]? = some (.bnz 7 0) := by decide +kernel

/-- AnUnwaitedWriteHasBothOutcomes: the same write while the latency runs, and when it has passed. -/
theorem witness_unwaited : (withOp (.wr .codeIn (.imm 40)) (outstanding 0x5 1 State.reset)).wait ≠ 0 ∧
    (withOp (.wr .codeIn (.imm 40)) (outstanding 0x5 0 State.reset)).wait = 0 ∧
    ∀ n : Fin 2, (withOp (.wr .codeIn (.imm 40)) (outstanding 0x5 n.val State.reset)).busy = true ∧
      (withOp (.wr .codeIn (.imm 40)) (outstanding 0x5 n.val State.reset)).rstN = [] ∧
      nextHostOp (withOp (.wr .codeIn (.imm 40)) (outstanding 0x5 n.val State.reset)) = some (.wr .codeIn (.imm 40)) := by
  decide

/-- WorkingRegistersAreNeverSeen: a step that writes them. -/
theorem witness_working : ∃ t, step (outstanding 0x304 0 aState) = .next t ∧ t.work.acc = 1 :=
  next_of (by decide +kernel)

/-- AnIdleBlockKeepsItsState. -/
theorem witness_idle : RunIsOver defState ∧ defState.rstN = [] := by unfold RunIsOver; decide +kernel

/-- The model's step is the interface's run. -/
theorem test_run_of_one_step : Host.Core.run Sys2Proof.core 1 (outstanding 0x0 0 State.reset) =
    .next { outstanding 0x0 0 State.reset with busy := false } :=
  AfterSteps.run ⟨_, rfl, rfl⟩

end Sys2Proof.Machine.Tests
end

/-! ## State and outcomes (10_state.md): the layer of facts, then the statements

The facts come in the order of the definitions they speak of: the decoder, the window, STATUS, the power table, the
commits, the host's turn and the step. -/

section
/-! ### The fields of a word, and which words decode to a command -/

namespace Sys2Proof

/-- The layout of 30_encoding.md R80: the low field is split off, one field after the other. -/
theorem word_eq_fields (w : Word) :
    w = highReserved w ++ nField w ++ lowReserved w ++ BitVec.ofBool (zfField w) ++ opField w := by
  have cut (start low high : Nat) :
      w.extractLsb' start (high + low) = w.extractLsb' (start + low) high ++ w.extractLsb' start low :=
    (BitVec.extractLsb'_append_extractLsb'_eq_extractLsb' rfl).symm
  have zf : w.extractLsb' 4 1 = BitVec.ofBool (zfField w) := by
    ext i hi
    obtain rfl : i = 0 := by omega
    simp [zfField]
  calc w = w.extractLsb' 0 (28 + 4) := BitVec.extractLsb'_eq_self.symm
    _ = w.extractLsb' 4 (27 + 1) ++ opField w := cut 0 4 28
    _ = w.extractLsb' 5 (24 + 3) ++ BitVec.ofBool (zfField w) ++ opField w := by rw [cut 4 1 27, zf]
    _ = w.extractLsb' 8 (17 + 7) ++ lowReserved w ++ BitVec.ofBool (zfField w) ++ opField w := by
      rw [cut 5 3 24, lowReserved]
    _ = highReserved w ++ nField w ++ lowReserved w ++ BitVec.ofBool (zfField w) ++ opField w := by
      rw [cut 8 7 17, highReserved, nField]

/-- Masking a word masks each field. -/
theorem word_and_fields (w : Word) (high : BitVec 17) (n : BitVec 7) (low : BitVec 3) (zf : Bool) (op : BitVec 4) :
    w &&& (high ++ n ++ low ++ BitVec.ofBool zf ++ op) =
      (highReserved w &&& high) ++ (nField w &&& n) ++ (lowReserved w &&& low) ++ BitVec.ofBool (zfField w && zf) ++
        (opField w &&& op) := by
  conv_lhs => rw [word_eq_fields w]
  rw [← BitVec.ofBool_and_ofBool, ← BitVec.and_append, ← BitVec.and_append, ← BitVec.and_append, ← BitVec.and_append]

theorem decodePlain_eq_instr {w : Word} {i j : Instr} (h : decodePlain w i = .instr j) :
    zfField w = false ∧ nField w = 0 ∧ j = i := by
  unfold decodePlain at h
  split at h
  case isTrue => cases h
  case isFalse hz =>
    split at h
    case isTrue => cases h
    case isFalse hn => cases h; exact ⟨by simpa using hz, not_not.1 hn, rfl⟩

theorem decodeWithLength_eq_instr {w : Word} {i : Nat → Instr} {j : Instr} (h : decodeWithLength w i = .instr j) :
    zfField w = false ∧ j = i (nField w).toNat := by
  unfold decodeWithLength at h
  split at h
  case isTrue => cases h
  case isFalse hz => cases h; exact ⟨by simpa using hz, rfl⟩

/-- What the fields of a legal word are, command by command (30_encoding.md R85). -/
theorem fields_of_decode_eq_instr {w : Word} {i : Instr} (h : decode w = .instr i) :
    highReserved w = 0 ∧ lowReserved w = 0 ∧
    ((opField w = 0 ∧ zfField w = false ∧ nField w = 0 ∧ i = .nop) ∨
     (opField w = 1 ∧ zfField w = false ∧ i = .config (nField w).toNat) ∨
     (opField w = 2 ∧ zfField w = false ∧ nField w = 0 ∧ i = .loaddef) ∨
     (opField w = 3 ∧ zfField w = false ∧ nField w = 0 ∧ i = .maxchars) ∨
     (opField w = 4 ∧ zfField w = false ∧ i = .encode (nField w).toNat) ∨
     (opField w = 5 ∧ nField w = 0 ∧ i = .decode (zfField w))) := by
  unfold decode at h
  split at h
  case isTrue => cases h
  case isFalse hreserved =>
    obtain ⟨hhigh, hlow⟩ := not_or.1 hreserved
    refine ⟨not_not.1 hhigh, not_not.1 hlow, ?_⟩
    split at h
    case isTrue hop => exact .inl ⟨hop, decodePlain_eq_instr h⟩
    split at h
    case isTrue hop => exact .inr (.inl ⟨hop, decodeWithLength_eq_instr h⟩)
    split at h
    case isTrue hop => exact .inr (.inr (.inl ⟨hop, decodePlain_eq_instr h⟩))
    split at h
    case isTrue hop => exact .inr (.inr (.inr (.inl ⟨hop, decodePlain_eq_instr h⟩)))
    split at h
    case isTrue hop => exact .inr (.inr (.inr (.inr (.inl ⟨hop, decodeWithLength_eq_instr h⟩))))
    split at h
    case isTrue hop =>
      split at h
      case isTrue => cases h
      case isFalse hn => cases h; exact .inr (.inr (.inr (.inr (.inr ⟨hop, not_not.1 hn, rfl⟩))))
    case isFalse => cases h

/-- A row whose mask and pattern are given field by field accepts a word whose masked fields are the pattern's. -/
theorem OpcodeRow.accepts_of_fields {r : OpcodeRow} {w : Word}
    (high : BitVec 17) (n : BitVec 7) (low : BitVec 3) (zf : Bool) (op : BitVec 4)
    (hmask : r.mask = high ++ n ++ low ++ BitVec.ofBool zf ++ op)
    (hpattern : (highReserved w &&& high) ++ (nField w &&& n) ++ (lowReserved w &&& low) ++
      BitVec.ofBool (zfField w && zf) ++ (opField w &&& op) = r.pattern) : r.accepts w = true := by
  rw [OpcodeRow.accepts, hmask, word_and_fields, hpattern, beq_self_eq_true]

/-- Every word that decodes to a command matches a row of the table of legal words (30_encoding.md R85). -/
theorem row_accepts_of_decode {w : Word} {i : Instr} (h : decode w = .instr i) :
    ∃ r ∈ opcodeRows, r.accepts w = true := by
  obtain ⟨hhigh, hlow, hop⟩ := fields_of_decode_eq_instr h
  rcases hop with ⟨ho, hz, hn, -⟩ | ⟨ho, hz, -⟩ | ⟨ho, hz, hn, -⟩ | ⟨ho, hz, hn, -⟩ | ⟨ho, hz, -⟩ | ⟨ho, hn, -⟩
  · exact ⟨⟨0x00000000, 0xFFFFFFFF⟩, by decide, OpcodeRow.accepts_of_fields (.allOnes 17) (.allOnes 7) (.allOnes 3)
      true (.allOnes 4) rfl (by rw [hhigh, hlow, ho, hz, hn]; rfl)⟩
  · exact ⟨⟨0x00000001, 0xFFFF80FF⟩, by decide, OpcodeRow.accepts_of_fields (.allOnes 17) 0#7 (.allOnes 3)
      true (.allOnes 4) rfl (by rw [hhigh, hlow, ho, hz, BitVec.and_zero]; rfl)⟩
  · exact ⟨⟨0x00000002, 0xFFFFFFFF⟩, by decide, OpcodeRow.accepts_of_fields (.allOnes 17) (.allOnes 7) (.allOnes 3)
      true (.allOnes 4) rfl (by rw [hhigh, hlow, ho, hz, hn]; rfl)⟩
  · exact ⟨⟨0x00000003, 0xFFFFFFFF⟩, by decide, OpcodeRow.accepts_of_fields (.allOnes 17) (.allOnes 7) (.allOnes 3)
      true (.allOnes 4) rfl (by rw [hhigh, hlow, ho, hz, hn]; rfl)⟩
  · exact ⟨⟨0x00000004, 0xFFFF80FF⟩, by decide, OpcodeRow.accepts_of_fields (.allOnes 17) 0#7 (.allOnes 3)
      true (.allOnes 4) rfl (by rw [hhigh, hlow, ho, hz, BitVec.and_zero]; rfl)⟩
  · exact ⟨⟨0x00000005, 0xFFFFFFEF⟩, by decide, OpcodeRow.accepts_of_fields (.allOnes 17) (.allOnes 7) (.allOnes 3)
      false (.allOnes 4) rfl (by rw [hhigh, hlow, ho, hn, Bool.and_false]; rfl)⟩

namespace Machine

theorem decode_of_noCommand {w : Word} (h : NoCommand w) : ∃ why, decode w = .illegal why := by
  cases hd : decode w with
  | illegal why => exact ⟨why, rfl⟩
  | instr i =>
    obtain ⟨r, hr, haccepts⟩ := row_accepts_of_decode hd
    exact absurd haccepts (by simp [h r hr])

end Machine

end Sys2Proof
end

section
/-! ### The host window: offsets, reads and writes -/

namespace Sys2Proof.Machine

@[simp] theorem regIndex_regAt : ∀ a : BitVec 5, regIndex (regAt a) = a := by decide

/-- The byte offset of word `n` of the window. -/
theorem four_mul_toNat_index {n : Nat} (h : n < 32) : 4 * (BitVec.ofNat 5 n).toNat = 4 * n := by
  rw [BitVec.toNat_ofNat, Nat.mod_eq_of_lt h]

theorem regOffset_reserved (k : Fin 2) : regOffset (.reserved k) = 0x18 + 4 * k.val := by
  rw [regOffset, regIndex, four_mul_toNat_index (by omega), Nat.mul_add]

theorem regOffset_src (w : Fin 4) : regOffset (.src w) = 0x20 + 4 * w.val := by
  rw [regOffset, regIndex, four_mul_toNat_index (by omega), Nat.mul_add]

theorem regOffset_dst (w : Fin 4) : regOffset (.dst w) = 0x30 + 4 * w.val := by
  rw [regOffset, regIndex, four_mul_toNat_index (by omega), Nat.mul_add]

theorem regOffset_stage (w : Fin 16) : regOffset (.stage w) = 0x40 + 4 * w.val := by
  rw [regOffset, regIndex, four_mul_toNat_index (by omega), Nat.mul_add]

/-- PEND is not host-readable (10_state.md R37). -/
theorem readReg_pend (r : Reg) (w : Word) (s : State) : readReg r { s with pend := w } = readReg r s := by
  cases r <;> rfl

/-- A write to a word the host may not write does nothing, busy or idle (20_memory.md R72). -/
theorem writeReg_not_writable {r : Reg} (v : Word) (s : State) (hr : r.writable = false) : writeReg r v s = s := by
  rcases writeReg_cases r v s with h | ⟨-, hw, -⟩ | ⟨-, rfl, -⟩ | ⟨-, rfl, -⟩ | ⟨-, w, rfl, -⟩ | ⟨-, w, rfl, -⟩
  case inl => exact h
  case inr.inl => exact absurd hw (by simp [hr])
  all_goals cases hr

/-- Only the acceptance of a command clears WIB among the host's writes (10_state.md R23, R37). -/
theorem writeReg_clears_wib {r : Reg} {v : Word} {s : State} (hs : s.wib = true) (h : (writeReg r v s).wib = false) :
    s.busy = false ∧ r = .cmd ∧ (writeReg r v s).busy = true := by
  rcases writeReg_cases r v s with e | ⟨-, -, e⟩ | ⟨hidle, hr, e⟩ | ⟨-, -, e⟩ | ⟨-, w, -, e⟩ | ⟨-, w, -, e⟩
  case inr.inr.inl => exact ⟨hidle, hr, by rw [e, accept_busy]⟩
  all_goals simp [e, hs] at h

/-- Only a dropped write sets WIB (10_state.md R23). -/
theorem writeReg_sets_wib {r : Reg} {v : Word} {s : State} (hs : s.wib = false) (h : (writeReg r v s).wib = true) :
    s.busy = true ∧ r.writable = true := by
  rcases writeReg_cases r v s with e | ⟨hbusy, hr, -⟩ | ⟨-, -, e⟩ | ⟨-, -, e⟩ | ⟨-, w, -, e⟩ | ⟨-, w, -, e⟩
  case inr.inl => exact ⟨hbusy, hr⟩
  all_goals simp [e, hs] at h

end Sys2Proof.Machine
end

section
/-! ### The fields of STATUS -/

namespace Sys2Proof.Machine

variable (s : State)

@[simp] theorem statusWord_busy : (statusWord s).getLsbD 0 = s.busy := by
  simp only [statusWord, BitVec.getLsbD_append]
  simp

@[simp] theorem statusWord_valid : (statusWord s).getLsbD 1 = decide (s.csLen ≠ 0) := by
  simp only [statusWord, BitVec.getLsbD_append]
  simp [validFlag]

@[simp] theorem statusWord_wib : (statusWord s).getLsbD 2 = s.wib := by
  simp only [statusWord, BitVec.getLsbD_append]
  simp

@[simp] theorem statusWord_reserved_three : (statusWord s).getLsbD 3 = false := by
  simp only [statusWord, BitVec.getLsbD_append]
  simp

@[simp] theorem statusWord_err : (statusWord s).extractLsb' 4 3 = errCode s.err := by
  apply BitVec.eq_of_getLsbD_eq
  intro i hi
  simp only [statusWord, BitVec.getLsbD_append, BitVec.getLsbD_extractLsb']
  interval_cases i <;> simp

@[simp] theorem statusWord_reserved_seven : (statusWord s).getLsbD 7 = false := by
  simp only [statusWord, BitVec.getLsbD_append]
  simp

@[simp] theorem statusWord_errIdx : (statusWord s).extractLsb' 8 4 = s.errIdx := by
  apply BitVec.eq_of_getLsbD_eq
  intro i hi
  simp only [statusWord, BitVec.getLsbD_append, BitVec.getLsbD_extractLsb']
  interval_cases i <;> simp

@[simp] theorem statusWord_reserved_high : (statusWord s).extractLsb' 12 20 = 0 := by
  apply BitVec.eq_of_getLsbD_eq
  intro i hi
  simp only [statusWord, BitVec.getLsbD_append, BitVec.getLsbD_extractLsb']
  interval_cases i <;> simp

/-- The codes 6 and 7 are never produced (10_state.md R24). -/
theorem errCode_le_five (e : Err) : (errCode e).toNat ≤ 5 := by
  cases e <;> decide

end Sys2Proof.Machine
end

section
/-! ### The power table, and why ENCODE's sum stays within 32 bits -/

namespace Sys2Proof.Machine

theorem maxC_ne_zero_iff (L : Nat) : maxC L ≠ 0 ↔ legalLength L = true := by
  cases hL : legalLength L with
  | true => exact iff_of_true (Nat.pos_iff_ne_zero.1 (by have := maxC_pos hL; omega)) rfl
  | false => simp [maxC_of_not_legal hL]

/-- Where the length is legal or 0, the codec is inert exactly when MaxChars is 0 (10_state.md R26). -/
theorem State.Inv.csLen_ne_zero_iff {s : State} (h : s.Inv) : s.csLen ≠ 0 ↔ maxC (setLength s) ≠ 0 := by
  rw [maxC_ne_zero_iff]
  constructor
  · exact h.length_legal.resolve_left
  · intro hlegal hzero
    simp [setLength, hzero, legalLength] at hlegal

theorem le_maxCode_of_mem_powersFrom {L k p x : Nat} (h : x ∈ powersFrom L k p) : x ≤ maxCode := by
  induction k generalizing p with
  | zero => cases h
  | succ k ih =>
    unfold powersFrom at h
    split at h
    case isTrue hp =>
      rcases List.mem_cons.1 h with rfl | hx
      · exact hp
      · exact ih hx
    case isFalse => cases h

section
variable {L i : Nat}

theorem lt_powerRow_length (hL : legalLength L = true) (hi : i ≤ maxC L) : i < (powerRow L).length := by
  have hpos := maxC_pos hL
  unfold maxC at hpos hi
  omega

theorem powerRow_getD (hL : legalLength L = true) (hi : i ≤ maxC L) : (powerRow L).getD i 0 = L ^ i := by
  have hlt := lt_powerRow_length hL hi
  rw [powerRow, if_pos hL] at hlt ⊢
  rw [powersFrom_getD L 10 1 i hlt, Nat.one_mul]

theorem pow_mem_powerRow (hL : legalLength L = true) (hi : i ≤ maxC L) : L ^ i ∈ powerRow L := by
  have hlt := lt_powerRow_length hL hi
  rw [← powerRow_getD hL hi, List.getD_eq_getElem _ _ hlt]
  exact List.getElem_mem hlt

/-- L^i is a 32-bit value up to i = MAXC(L) (20_memory.md R60, R62). -/
theorem pow_le_maxCode (hL : legalLength L = true) (hi : i ≤ maxC L) : L ^ i ≤ maxCode := by
  have hmem := pow_mem_powerRow hL hi
  rw [powerRow, if_pos hL] at hmem
  exact le_maxCode_of_mem_powersFrom hmem

/-- The ROM address of PWR(L, i) lies in row L, at column i (20_memory.md R61). -/
theorem pwr_eq_powerRow (hL : legalLength L = true) (hi : i < 10) :
    pwr L i = BitVec.ofNat 32 ((powerRow L).getD i 0) := by
  obtain ⟨hlo, -⟩ := (legalLength_iff L).1 hL
  have hrow : ((L - 10) * 10 + i) / 10 + 10 = L := by omega
  have hcol : ((L - 10) * 10 + i) % 10 = i := by omega
  rw [pwr, romWord, hrow, hcol]

theorem pwr_toNat (hL : legalLength L = true) (hi : i ≤ maxC L) : (pwr L i).toNat = L ^ i := by
  have hnine := maxC_le_nine L
  have hle := pow_le_maxCode hL hi
  rw [pwr_eq_powerRow hL (by omega), powerRow_getD hL hi, BitVec.toNat_ofNat]
  exact Nat.mod_eq_of_lt (by unfold maxCode at hle; omega)

/-- One more digit: a sum below L^i grows to one below L^(i+1) (20_memory.md R66). -/
theorem add_digit_mul_pow_lt {a d : Nat} (ha : a < L ^ i) (hd : d < L) : a + d * L ^ i < L ^ (i + 1) := by
  calc a + d * L ^ i < L ^ i + d * L ^ i := by omega
    _ = (d + 1) * L ^ i := by ring
    _ ≤ L * L ^ i := Nat.mul_le_mul_right _ hd
    _ = L ^ (i + 1) := (pow_succ' L i).symm

variable {d : Nat} {acc : Word}

theorem encodeOverflows_eq_false (hL : legalLength L = true) (hi : i < maxC L) (hacc : acc.toNat < L ^ i)
    (hd : d < L) : encodeOverflows acc d (pwr L i) = false := by
  have hlt := add_digit_mul_pow_lt hacc hd
  have hmax : L ^ (i + 1) ≤ maxCode := pow_le_maxCode hL hi
  simp only [encodeOverflows, pwr_toNat hL hi.le, Bool.or_eq_false_iff, decide_eq_false_iff_not]
  omega

/-- ACC after one iteration of ENCODE's loop is the exact sum (42_encode.md R131). -/
theorem add_digit_toNat (hL : legalLength L = true) (hi : i < maxC L) (hacc : acc.toNat < L ^ i) (hd : d < L) :
    (acc + BitVec.ofNat 32 d * pwr L i).toNat = acc.toNat + d * L ^ i := by
  have hlt := add_digit_mul_pow_lt hacc hd
  have hmax : L ^ (i + 1) ≤ maxCode := pow_le_maxCode hL hi
  have hshort := ((legalLength_iff L).1 hL).2
  unfold maxCode at hmax
  rw [BitVec.toNat_add, BitVec.toNat_mul, BitVec.toNat_ofNat, pwr_toNat hL hi.le, Nat.mod_eq_of_lt (a := d) (by omega),
    Nat.mod_eq_of_lt (a := d * L ^ i) (by omega), Nat.mod_eq_of_lt (by omega)]

end

/-- The invariant of ENCODE's loop is ACC < L^i, which the overflow check never contradicts (42_encode.md R135). -/
theorem sumDigits_ne_overflow {L : Nat} (hL : legalLength L = true) (cs : Vector Byte 64) (src : Vector Byte 16)
    {k i : Nat} {acc : Word} (hk : i + k ≤ maxC L) (hacc : acc.toNat < L ^ i) :
    (sumDigits L cs src k i acc).err ≠ .overflow := by
  induction k generalizing i acc with
  | zero => simp [sumDigits]
  | succ k ih =>
    unfold sumDigits
    cases hlookup : lookup cs L (byteAt src i) with
    | none => simp
    | some d =>
      have hd : d < L := (lookup_sound hlookup).1
      have hi : i < maxC L := by omega
      have hnext : (acc + BitVec.ofNat 32 d * pwr L i).toNat < L ^ (i + 1) := by
        rw [add_digit_toNat hL hi hacc hd]
        exact add_digit_mul_pow_lt hacc hd
      simpa [encodeOverflows_eq_false hL hi hacc hd] using ih (by omega) hnext

/-- ENCODE's whole loop, for every length: one without a row has MAXC 0, so no digit is summed. -/
theorem sumDigits_zero_ne_overflow {L n : Nat} (cs : Vector Byte 64) (src : Vector Byte 16) (hn : n ≤ maxC L) :
    (sumDigits L cs src n 0 0).err ≠ .overflow := by
  cases hL : legalLength L with
  | true => exact sumDigits_ne_overflow hL cs src (by omega) (by simp)
  | false =>
    obtain rfl : n = 0 := by simpa [maxC_of_not_legal hL] using hn
    simp [sumDigits]

end Sys2Proof.Machine
end

section
/-! ### What the commit of each command writes (10_state.md R41) -/

namespace Sys2Proof.Machine

theorem exec_nop_eq (s : State) : exec .nop s = .next { s with err := .ok, errIdx := 0, busy := false } := rfl

theorem exec_config_frame (n : Nat) (s : State) : ∃ set len,
    exec (.config n) s = .next { s with cs := set, csLen := len, err := .ok, errIdx := 0, busy := false } := by
  rcases execConfig_cases n s with ⟨-, h⟩ | ⟨-, h⟩
  · exact ⟨_, _, h⟩
  · exact ⟨_, _, h⟩

theorem exec_loaddef_frame (s : State) : ∃ set len,
    exec .loaddef s = .next { s with cs := set, csLen := len, err := .ok, errIdx := 0, busy := false } :=
  ⟨_, _, rfl⟩

theorem exec_maxchars_frame (s : State) : ∃ res,
    exec .maxchars s = .next { s with result := res, err := .ok, errIdx := 0, busy := false } :=
  ⟨_, rfl⟩

theorem exec_encode_frame (n : Nat) (s : State) : ∃ wk res e idx,
    exec (.encode n) s = .next { s with work := wk, result := res, err := e, errIdx := idx, busy := false } ∧
    (e = .ok ∨ e = .invalidCharset ∨ e = .lengthExceeded ∨ e = .invalidSymbol) ∧
    (e ≠ .ok → res = s.result) ∧ (e ≠ .invalidSymbol → idx = 0) := by
  rcases execEncode_cases n s with ⟨-, h⟩ | ⟨-, -, h⟩ | ⟨-, hn, r, hr, ⟨-, h⟩ | ⟨-, h⟩ | ⟨he, -⟩⟩
  · exact ⟨_, _, _, _, h, by simp⟩
  · exact ⟨_, _, _, _, h, by simp⟩
  · exact ⟨_, _, _, _, h, by simp⟩
  · exact ⟨_, _, _, _, h, by simp⟩
  · subst hr
    exact absurd he (sumDigits_zero_ne_overflow s.cs s.src hn)

theorem exec_decode_frame (zf : Bool) (s : State) : ∃ wk out len e,
    exec (.decode zf) s = .next { s with work := wk, dst := out, dstLen := len, err := e, errIdx := 0, busy := false } ∧
    (e = .ok ∨ e = .invalidCharset ∨ e = .lengthExceeded) ∧
    (e = .invalidCharset → out = s.dst ∧ len = s.dstLen) := by
  rcases execDecode_cases zf s with ⟨-, h⟩ | ⟨-, r, -, h⟩
  · exact ⟨_, _, _, _, h, by simp⟩
  · refine ⟨_, _, _, _, h, ?_⟩
    split <;> simp

theorem commitPending_of_noCommand {s : State} (h : NoCommand s.pend) :
    commitPending s = .next { s with err := .illegalCmd, errIdx := 0, busy := false } := by
  obtain ⟨why, hd⟩ := decode_of_noCommand h
  simp [commitPending, hd, commitIllegal, commitWith]

/-- `t` differs from `s` in the registers that a commit may write, and nowhere else (10_state.md R41, R42). -/
def OnlyCommitWrites (s t : State) : Prop :=
  t = { s with work := t.work, cs := t.cs, csLen := t.csLen, result := t.result, dst := t.dst, dstLen := t.dstLen,
               err := t.err, errIdx := t.errIdx, busy := false }

theorem exec_onlyCommitWrites {i : Instr} {s t : State} (h : exec i s = .next t) : OnlyCommitWrites s t := by
  cases i with
  | nop => cases (exec_nop_eq s).symm.trans h; rfl
  | config n => obtain ⟨_, _, e⟩ := exec_config_frame n s; cases e.symm.trans h; rfl
  | loaddef => obtain ⟨_, _, e⟩ := exec_loaddef_frame s; cases e.symm.trans h; rfl
  | maxchars => obtain ⟨_, e⟩ := exec_maxchars_frame s; cases e.symm.trans h; rfl
  | encode n => obtain ⟨_, _, _, _, e, -⟩ := exec_encode_frame n s; cases e.symm.trans h; rfl
  | decode zf => obtain ⟨_, _, _, _, e, -⟩ := exec_decode_frame zf s; cases e.symm.trans h; rfl

theorem commitPending_onlyCommitWrites {s t : State} (h : commitPending s = .next t) : OnlyCommitWrites s t := by
  unfold commitPending at h
  split at h
  · exact exec_onlyCommitWrites h
  · cases h; rfl

theorem OnlyCommitWrites.wib {s t : State} (h : OnlyCommitWrites s t) : t.wib = s.wib := by
  rw [OnlyCommitWrites] at h
  rw [h]

end Sys2Proof.Machine
end

section
/-! ### The host's turn, and how a step changes WIB (10_state.md R23) -/

namespace Sys2Proof.Machine

@[simp] theorem nextHostOp_takeSample (s : State) : nextHostOp (takeSample s) = nextHostOp s := rfl
@[simp] theorem nextHostOp_tick (s : State) : nextHostOp (tick s) = nextHostOp s := rfl

@[simp] theorem busWrite_outOfReset (r : Reg) (v : Word) (s : State) : busWrite false r v s = writeReg r v s := by
  simp [busWrite]

/-- Out of reset the host's turn changes the host alone, or is a write of its program. -/
theorem hostTurn_outOfReset (s : State) :
    (∃ host, hostTurn false s = { s with host := host }) ∨
    (∃ r v, nextHostOp s = some (.wr r v) ∧
      hostTurn false s = goTo (s.host.place + 1) (writeReg r (hostValue v s.host) s)) := by
  rcases hostTurn_cases false s with ⟨-, h⟩ | ⟨r, v, hop, h⟩ | ⟨k, r, -, h⟩ | ⟨k, j, v, -, h⟩ | ⟨k, t, -, h⟩
  · exact .inl ⟨s.host, h⟩
  · exact .inr ⟨r, v, hop, by rw [h, busWrite_outOfReset]⟩
  · exact .inl ⟨_, h⟩
  · exact .inl ⟨_, h⟩
  · exact .inl ⟨_, h⟩

variable {s t : State}

theorem step_resetLow_wib (hlow : resetIsLow s = true) (h : step s = .next t) : t.wib = false := by
  obtain ⟨host, hturn⟩ := hostTurn_inReset (resetBlock (takeSample s))
  simp only [step, hlow, if_true, hturn] at h
  cases h
  rfl

/-- Out of reset a step leaves WIB as it is, or is a write of the host, after which BUSY and WIB stand as that write
leaves them. -/
theorem step_wib_cases (h : step s = .next t) :
    resetIsLow s = true ∨ t.wib = s.wib ∨
    (HostsTurn s ∧ ∃ r v x, nextHostOp s = some (.wr r v) ∧
      t.busy = (writeReg r x (tick (takeSample s))).busy ∧ t.wib = (writeReg r x (tick (takeSample s))).wib) := by
  rcases step_cases s with ⟨hlow, -⟩ | ⟨-, -, e⟩ | ⟨hhigh, hdue, e⟩
  · exact .inl hlow
  · have hcommit : commitPending (takeSample s) = .next t := e.symm.trans h
    exact .inr (.inl (commitPending_onlyCommitWrites hcommit).wib)
  · cases e.symm.trans h
    rcases hostTurn_outOfReset (tick (takeSample s)) with ⟨host, hturn⟩ | ⟨r, v, hop, hturn⟩
    · exact .inr (.inl (by rw [hturn]; rfl))
    · exact .inr (.inr ⟨⟨hhigh, hdue⟩, r, v, _, hop, by rw [hturn, goTo_busy], by rw [hturn, goTo_wib]⟩)

theorem step_clears_wib (h : step s = .next t) (hs : s.wib = true) (ht : t.wib = false) :
    resetIsLow s = true ∨
    (s.busy = false ∧ t.busy = true ∧ HostsTurn s ∧ ∃ v, nextHostOp s = some (.wr .cmd v)) := by
  rcases step_wib_cases h with hlow | hsame | ⟨hturn, r, v, x, hop, hbusy, hwib⟩
  · exact .inl hlow
  · simp [hsame, hs] at ht
  · obtain ⟨hidle, rfl, haccepted⟩ := writeReg_clears_wib (s := tick (takeSample s)) hs (hwib ▸ ht)
    exact .inr ⟨hidle, hbusy.trans haccepted, hturn, v, hop⟩

theorem step_sets_wib (h : step s = .next t) (hs : s.wib = false) (ht : t.wib = true) :
    s.busy = true ∧ HostsTurn s ∧ ∃ r v, nextHostOp s = some (.wr r v) ∧ r.writable = true := by
  rcases step_wib_cases h with hlow | hsame | ⟨hturn, r, v, x, hop, -, hwib⟩
  · simp [step_resetLow_wib hlow h] at ht
  · simp [hsame, hs] at ht
  · obtain ⟨hbusy, hr⟩ := writeReg_sets_wib (s := tick (takeSample s)) hs (hwib ▸ ht)
    exact ⟨hbusy, hturn, r, v, hop, hr⟩

end Sys2Proof.Machine
end

section
/-! ### The statements of 10_state.md -/

namespace Sys2Proof.Machine

/-- Settles O6: the two maps are inverse, and each offset is four times the word's index. -/
theorem eachOffsetNamesOneRegister : Obligations.EachOffsetNamesOneRegister :=
  ⟨regAt_regIndex, regIndex_regAt, rfl, rfl, rfl, rfl, rfl, rfl,
    regOffset_reserved, regOffset_src, regOffset_dst, regOffset_stage⟩

/-- Settles O11, field by field of the STATUS word. -/
theorem statusHasItsFieldsAndZeros : Obligations.StatusHasItsFieldsAndZeros := by
  unfold Obligations.StatusHasItsFieldsAndZeros
  refine ⟨⟨rfl, rfl, rfl, rfl, rfl, rfl⟩, fun s => ?_⟩
  rw [memRead_regIndex, show readReg .status s = statusWord s from rfl, statusWord_err]
  refine ⟨statusWord_busy s, statusWord_valid s, statusWord_wib s, statusWord_reserved_three s, rfl,
    errCode_le_five s.err, statusWord_reserved_seven s, statusWord_errIdx s, statusWord_reserved_high s, fun v => ?_⟩
  rw [memWrite_regIndex, writeReg_not_writable v s rfl]

/-- Settles O9: acceptance is `accept`, which draws the latency. -/
theorem acceptanceLatchesTheWord : Obligations.AcceptanceLatchesTheWord := by
  refine ⟨rfl, fun s w r => ?_, fun s w hidle => ⟨Config.tCmdMinusOne s.draws, s.draws + 1, ?_, fun hw => ?_⟩⟩
  · rw [memRead_regIndex, memRead_regIndex, readReg_pend]
  · rw [memWrite_regIndex, writeReg_idle _ _ hidle]
    rfl
  · exact commitPending_of_noCommand hw

/-- Settles O10, by what a step can do to WIB. -/
theorem wibIsStickyAndMarksDroppedWrites : Obligations.WibIsStickyAndMarksDroppedWrites := by
  refine ⟨rfl, fun s => ⟨fun r v hbusy hr => ?_, fun r v hr => ?_, fun v hidle => ?_, fun t h => ?_⟩⟩
  · rw [memWrite_regIndex, writeReg_busy r v hbusy, if_pos hr]
    rfl
  · rw [memWrite_regIndex, writeReg_not_writable v s hr]
  · rw [memWrite_regIndex, writeReg_idle _ _ hidle]
    rfl
  · exact ⟨fun hlow => step_resetLow_wib hlow h, step_clears_wib h, step_sets_wib h⟩

/-- Settles O12: the invariant leaves the lengths 0 and 10 to 64, where MaxChars is 0 for 0 alone. -/
theorem validTellsAnInertCodec : Obligations.ValidTellsAnInertCodec := by
  have valid : ∀ s : State, (memRead (regIndex .status) s).getLsbD 1 = decide (s.csLen ≠ 0) := by
    intro s
    rw [memRead_regIndex]
    exact statusWord_valid s
  refine ⟨valid State.reset, fun s => ⟨valid s, ?_, fun hinv => ?_⟩⟩
  · rw [valid, decide_eq_true_iff]
    exact Iff.rfl
  · rw [valid, decide_eq_true_iff]
    exact hinv.csLen_ne_zero_iff

/-- Settles O43, from the frame of each command's commit. -/
theorem commandsWriteOnlyWhatTheTableSays : Obligations.CommandsWriteOnlyWhatTheTableSays := by
  refine ⟨fun s w hidle => ?_, fun s => ⟨⟨_, exec_nop_eq s, rfl⟩, fun n => ?config, ?loaddef, ?maxchars,
    fun n => ?encode, fun zf => ?decode, commitPending_of_noCommand⟩⟩
  · rw [memWrite_regIndex, writeReg_idle _ _ hidle]
    exact ⟨accept_busy s w, accept_wib s w, accept_csLen s w⟩
  case config =>
    obtain ⟨_, _, h⟩ := exec_config_frame n s
    exact ⟨_, h, rfl⟩
  case loaddef =>
    obtain ⟨_, _, h⟩ := exec_loaddef_frame s
    exact ⟨_, h, rfl⟩
  case maxchars =>
    obtain ⟨_, h⟩ := exec_maxchars_frame s
    exact ⟨_, h, rfl⟩
  case encode =>
    obtain ⟨_, _, _, _, h, hrow⟩ := exec_encode_frame n s
    exact ⟨_, h, rfl, hrow⟩
  case decode =>
    obtain ⟨_, _, _, _, h, hrow⟩ := exec_decode_frame zf s
    exact ⟨_, h, rfl, hrow⟩

end Sys2Proof.Machine
end

/-! ## The host window and the ROMs (20_memory.md): the layer of facts, then the statements

The facts come in the order of the rules: the byte lanes and the persisted form (R50, R51), the power table (R60 to
R62), the digit sums (R66), the accesses of the host (R71, R72). -/

section
/-! ### Byte lanes, and the persisted form of a code -/

namespace Sys2Proof.Machine

/-- Lane `j` of a register word is byte 4w + j of its buffer. -/
theorem lane_bufferWord {n : Nat} (buf : Vector Byte n) (w : Nat) (j : Fin 4) :
    lane (bufferWord buf w) j = byteAt buf (4 * w + j) := by
  match j with
  | 0 => exact lane0_word4 ..
  | 1 => exact lane1_word4 ..
  | 2 => exact lane2_word4 ..
  | 3 => exact lane3_word4 ..

/-- Byte 4w + j of a buffer whose word w has been written is lane `j` of the value. -/
theorem byteAt_setBufferWord_lane {n w : Nat} (buf : Vector Byte n) (v : Word) (j : Fin 4) (hw : 4 * w + 4 ≤ n) :
    byteAt (setBufferWord buf w v) (4 * w + j) = lane v j := by
  have hj := j.isLt
  rw [byteAt_setBufferWord buf w v _ (by omega), if_pos (by omega), show (4 * w + j.val) % 4 = j.val by omega]

/-- Every byte of a buffer after a write of word w, the 0x00 past its end included: only word w changes. -/
theorem byteAt_setBufferWord_of_fits {n w : Nat} (buf : Vector Byte n) (v : Word) (hw : 4 * w + 4 ≤ n) (k : Nat) :
    byteAt (setBufferWord buf w v) k = if k / 4 = w then lane v (k % 4) else byteAt buf k := by
  rcases Nat.lt_or_ge k n with hk | hk
  · exact byteAt_setBufferWord buf w v k hk
  · rw [if_neg (by omega), byteAt_of_le _ hk, byteAt_of_le _ hk]

theorem lane_toNat (v : Word) (j : Nat) : (lane v j).toNat = v.toNat / 2 ^ (8 * j) % 256 := by
  rw [lane, BitVec.extractLsb'_toNat, Nat.shiftRight_eq_div_pow]

/-- The persisted bytes are the base-256 digits of the code, the least significant first. -/
theorem numericForm_persistedBytes (c : Word) : numericForm 256 ((persistedBytes c).map BitVec.toNat) = c.toNat := by
  have hc := c.isLt
  simp only [persistedBytes, List.map_cons, List.map_nil, numericForm, lane_toNat]
  omega

end Sys2Proof.Machine
end

section
/-! ### The power table: its rows end at the largest power that fits -/

namespace Sys2Proof.Machine

/-- A row goes on as long as its entries fit: the next power, when it fits, is in it. -/
theorem lt_powersFrom_length {L k p i : Nat} (hL : 0 < L) (hi : i < k) (hfits : p * L ^ i ≤ maxCode) :
    i < (powersFrom L k p).length := by
  induction k generalizing p i with
  | zero => omega
  | succ k ih =>
    have hp : p ≤ maxCode := (Nat.le_mul_of_pos_right p (Nat.pow_pos hL)).trans hfits
    rw [powersFrom, if_pos hp, List.length_cons]
    cases i with
    | zero => omega
    | succ i =>
      have hnext : p * L * L ^ i ≤ maxCode := by rwa [Nat.mul_assoc, ← pow_succ']
      exact Nat.succ_lt_succ (ih (by omega) hnext)

section
variable {L i n : Nat}

theorem powerRow_length (hL : legalLength L = true) : (powerRow L).length = maxC L + 1 := by
  have hpos := maxC_pos hL
  unfold maxC at hpos ⊢
  omega

/-- Ten words are enough for a row: L^10 does not fit, since 10^10 does not (20_memory.md R61). -/
theorem lt_ten_of_pow_le_maxCode (hL : legalLength L = true) (h : L ^ n ≤ maxCode) : n < 10 := by
  obtain ⟨hten, -⟩ := (legalLength_iff L).1 hL
  by_contra hn
  have hbig : 10 ^ 10 ≤ maxCode := calc
    10 ^ 10 ≤ L ^ 10 := Nat.pow_le_pow_left hten 10
    _ ≤ L ^ n := Nat.pow_le_pow_right (by omega) (by omega)
    _ ≤ maxCode := h
  exact absurd hbig (by decide)

/-- MAXC(L) is the largest exponent whose power fits in 32 bits (20_memory.md R62). -/
theorem pow_le_maxCode_iff (hL : legalLength L = true) : L ^ n ≤ maxCode ↔ n ≤ maxC L := by
  refine ⟨fun h => ?_, pow_le_maxCode hL⟩
  obtain ⟨hten, -⟩ := (legalLength_iff L).1 hL
  have hlt : n < (powersFrom L 10 1).length :=
    lt_powersFrom_length (by omega) (lt_ten_of_pow_le_maxCode hL h) (by rwa [Nat.one_mul])
  have hlen := powerRow_length hL
  rw [powerRow, if_pos hL] at hlen
  omega

/-- MAXC is constant on a range of lengths: the power `n` of the longest fits, and the next power of the shortest does
not. -/
theorem maxC_eq_of_range {lo hi : Nat} (hlo : lo ≤ L) (hhi : L ≤ hi) (hten : 10 ≤ lo) (hmax : hi ≤ 64)
    (hfits : hi ^ n ≤ maxCode) (hover : maxCode < lo ^ (n + 1)) : maxC L = n := by
  have hL : legalLength L = true := (legalLength_iff L).2 ⟨by omega, by omega⟩
  have hge : n ≤ maxC L := (pow_le_maxCode_iff hL).1 ((Nat.pow_le_pow_left hhi n).trans hfits)
  have hlt : ¬ n + 1 ≤ maxC L := by
    rw [← pow_le_maxCode_iff hL, Nat.not_le]
    exact hover.trans_le (Nat.pow_le_pow_left hlo (n + 1))
  omega

/-- Past its entries a row is padded with 0 (20_memory.md R61). -/
theorem pwr_eq_zero (hL : legalLength L = true) (hi : i < 10) (hpast : maxC L < i) : pwr L i = 0 := by
  have hlen := powerRow_length hL
  rw [pwr_eq_powerRow hL hi, List.getD_eq_default _ _ (by omega)]
  rfl

/-- The rows hold 383 entries in all (20_memory.md R61). -/
theorem powerTable_entries : ((List.range 55).map fun k => maxC (k + 10) + 1).sum = 383 := by decide

end

end Sys2Proof.Machine
end

section
/-! ### The numeric form of a digit sequence (20_memory.md R66) -/

namespace Sys2Proof.Machine

theorem numericForm_lt_pow {L : Nat} {ds : List Nat} (h : ∀ d ∈ ds, d < L) : numericForm L ds < L ^ ds.length := by
  induction ds with
  | nil => simp [numericForm]
  | cons d ds ih =>
    obtain ⟨hd, hds⟩ := List.forall_mem_cons.1 h
    calc d + L * numericForm L ds < L + L * numericForm L ds := by omega
      _ = L * (numericForm L ds + 1) := by ring
      _ ≤ L * L ^ ds.length := Nat.mul_le_mul_left L (ih hds)
      _ = L ^ (ds.length + 1) := (pow_succ' L ds.length).symm

/-- A value below a power that fits is at most 2^32 - 2. -/
theorem le_of_lt_pow {L n x : Nat} (hL : legalLength L = true) (hn : n ≤ maxC L) (hx : x < L ^ n) :
    x ≤ 2 ^ 32 - 2 := by
  have hmax := pow_le_maxCode hL hn
  unfold maxCode at hmax
  omega

end Sys2Proof.Machine
end

section
/-! ### Reads and writes of the host (20_memory.md R71, R72) -/

namespace Sys2Proof.Machine

/-- The reserved bits 3, 7 and 31:12 of STATUS, all at once. -/
theorem statusWord_and_reserved (s : State) : statusWord s &&& 0xFFFFF088 = 0 := by
  calc statusWord s &&& 0xFFFFF088
      = (0#20 &&& BitVec.allOnes 20) ++ (s.errIdx &&& 0#4) ++ (0#1 &&& 1#1) ++ (errCode s.err &&& 0#3) ++
          (0#1 &&& 1#1) ++ (BitVec.ofBool s.wib &&& 0#1) ++ (BitVec.ofBool (validFlag s) &&& 0#1) ++
          (BitVec.ofBool s.busy &&& 0#1) := by
        simp only [← BitVec.and_append]
        rfl
    _ = 0 := by
        simp only [BitVec.and_zero, BitVec.zero_and]
        rfl

/-- No read tells how much of the latency has passed, or which samples of rst_n are to come. -/
theorem readReg_tick_takeSample (r : Reg) (s : State) : readReg r (tick (takeSample s)) = readReg r s := by
  cases r <;> rfl

theorem step_of_hostsTurn {s : State} (h : HostsTurn s) : step s = .next (hostTurn false (tick (takeSample s))) := by
  obtain ⟨hhigh, hdue⟩ := h
  simp [step, hhigh, hdue]

theorem hostTurn_rd {s : State} {k : Fin 8} {r : Reg} (h : nextHostOp s = some (.rd k r)) :
    hostTurn false s = setTemp k (readReg r s) s := by
  simp [hostTurn, h, hostOp, busRead]

/-- R72's list of the words a host write reaches. -/
theorem writable_of_cases {r : Reg} (h : r = .cmd ∨ r = .codeIn ∨ (∃ w, r = .src w) ∨ ∃ w, r = .stage w) :
    r.writable = true := by
  rcases h with rfl | rfl | ⟨w, rfl⟩ | ⟨w, rfl⟩ <;> rfl

/-- R72's list of the other words. -/
theorem not_writable_of_cases {r : Reg} (h : r = .status ∨ r = .result ∨ r = .csLen ∨ r = .dstLen ∨
    (∃ w, r = .dst w) ∨ ∃ k, r = .reserved k) : r.writable = false := by
  rcases h with rfl | rfl | rfl | rfl | ⟨w, rfl⟩ | ⟨k, rfl⟩ <;> rfl

end Sys2Proof.Machine
end

section
/-! ### The statements of 20_memory.md -/

namespace Sys2Proof.Machine

/-- Settles O8: while idle a write is `putReg`, while busy it is dropped where the word is writable. -/
theorem writesObeyTheWindowRule : Obligations.WritesObeyTheWindowRule := by
  intro s v
  simp only [memWrite_regIndex]
  refine ⟨fun hidle => ?cmd, fun hidle => writeReg_idle _ v hidle, fun hidle w => ?src, fun hidle w => ?stage,
    fun hbusy r hr => ?busy, fun r hr => writeReg_not_writable v s (not_writable_of_cases hr)⟩
  case cmd => exact ⟨_, _, writeReg_idle .cmd v hidle⟩
  case src => exact ⟨_, writeReg_idle (.src w) v hidle, byteAt_setBufferWord_of_fits s.src v (by omega)⟩
  case stage => exact ⟨_, writeReg_idle (.stage w) v hidle, byteAt_setBufferWord_of_fits s.stage v (by omega)⟩
  case busy =>
    rw [writeReg_busy r v hbusy, if_pos (writable_of_cases hr)]
    rfl

/-- Settles O13, by the lanes of a word that is read and of a word that is written. -/
theorem bufferBytesSitInTheirLanes : Obligations.BufferBytesSitInTheirLanes := by
  intro s
  simp only [memRead_regIndex, memWrite_regIndex]
  refine ⟨fun w j => lane_bufferWord s.src w j, fun w j => lane_bufferWord s.dst w j,
    fun w j => lane_bufferWord s.stage w j, fun hidle w j v => ?src, fun hidle w j v => ?stage⟩
  case src =>
    rw [writeReg_idle _ v hidle]
    exact byteAt_setBufferWord_lane s.src v j (by omega)
  case stage =>
    rw [writeReg_idle _ v hidle]
    exact byteAt_setBufferWord_lane s.stage v j (by omega)

/-- Settles O15: the words read, then the step of a host read, which takes the word as it was before the step. -/
theorem readsReturnTheRegisterAndChangeNothing : Obligations.ReadsReturnTheRegisterAndChangeNothing := by
  intro s
  simp only [memRead_regIndex]
  refine ⟨⟨rfl, fun _ => rfl, rfl, statusWord_valid s, rfl, rfl, rfl, rfl, statusWord_and_reserved s,
    fun _ => rfl, fun _ => rfl, fun _ => rfl⟩, fun k r hturn hop => ?_⟩
  rw [step_of_hostsTurn hturn, hostTurn_rd (by simpa using hop), readReg_tick_takeSample]
  rfl

/-- Settles O18, by the base-256 digits of a code. -/
theorem persistedFormIsLittleEndian : Obligations.PersistedFormIsLittleEndian :=
  ⟨fun _ => rfl, numericForm_persistedBytes, memRead_regIndex .result⟩

/-- Settles O22: up to MAXC(L) an entry is the power, past it the padding. -/
theorem powerTableHoldsThePowers : Obligations.PowerTableHoldsThePowers := by
  refine ⟨fun L hlo hhi i hi => ?_, powerTable_entries⟩
  have hL := (legalLength_iff L).2 ⟨hlo, hhi⟩
  exact ⟨rfl, fun hle => ⟨pwr_toNat hL hle, pow_le_maxCode hL hle⟩, pwr_eq_zero hL (by omega)⟩

/-- Settles O23: a power fits exactly up to MAXC(L), and the ends of each range of lengths fix its value there. -/
theorem maxcIsTheLargestExponent : Obligations.MaxcIsTheLargestExponent := by
  refine ⟨fun L hlo hhi => ?_, fun L hout => ?_, fun L hlo hhi => ?_, fun L hlo hhi => ?_, fun L hlo hhi => ?_,
    fun L hlo hhi => ?_, fun L hlo hhi => ?_⟩
  · have hL := (legalLength_iff L).2 ⟨hlo, hhi⟩
    exact ⟨pow_le_maxCode hL le_rfl, fun n hn => (pow_le_maxCode_iff hL).1 hn⟩
  · exact maxC_of_not_legal (by rw [← Bool.not_eq_true, legalLength_iff]; omega)
  all_goals exact maxC_eq_of_range hlo hhi (by decide) (by decide) (by decide) (by decide)

/-- Settles O24: n digits below L sum to less than L^n, which fits up to n = MAXC(L); a part of them is a shorter
sequence, and a digit times its power is the last step to the next power. -/
theorem digitSumsStayBelow32Bits : Obligations.DigitSumsStayBelow32Bits := by
  intro L ds hlo hhi hlen hdigits
  have hL := (legalLength_iff L).2 ⟨hlo, hhi⟩
  have hds : ∀ d ∈ ds, d < L := fun d hd => by have := hdigits d hd; omega
  have hpow : 0 < L ^ ds.length := Nat.pow_pos (by omega)
  refine ⟨Nat.le_sub_one_of_lt (numericForm_lt_pow hds), le_of_lt_pow hL hlen (by omega), fun m => ?part,
    fun i hi => ?product⟩
  case part =>
    have hshort : (ds.take m).length ≤ maxC L := (List.length_take_le' m ds).trans hlen
    exact le_of_lt_pow hL hshort (numericForm_lt_pow fun d hd => hds d (List.mem_of_mem_take hd))
  case product =>
    have hd : ds.getD i 0 < L := by
      rw [List.getD_eq_getElem _ _ hi]
      exact hds _ (List.getElem_mem hi)
    have hlt := add_digit_mul_pow_lt (i := i) (Nat.pow_pos (by omega)) hd
    rw [pwr_toNat hL (by omega)]
    exact le_of_lt_pow (n := i + 1) hL (by omega) (by simpa using hlt)

end Sys2Proof.Machine
end

/-! ## The command words (30_encoding.md): the layer of facts, then the statements

The facts come in the order of the rules: the fields of each command and the masks of its row (R85), that each row fixes
OP, then the illegal words (R86). -/

section
/-! ### The fields of each command -/

namespace Sys2Proof

/-- What OP, ZF and N of a word are when it is the command's, the reserved bits aside (30_encoding.md R85). -/
def CommandFields (w : Word) : Instr → Prop
  | .nop => opField w = 0 ∧ zfField w = false ∧ nField w = 0
  | .config n => opField w = 1 ∧ zfField w = false ∧ n = (nField w).toNat
  | .loaddef => opField w = 2 ∧ zfField w = false ∧ nField w = 0
  | .maxchars => opField w = 3 ∧ zfField w = false ∧ nField w = 0
  | .encode n => opField w = 4 ∧ zfField w = false ∧ n = (nField w).toNat
  | .decode zf => opField w = 5 ∧ nField w = 0 ∧ zf = zfField w

/-- The decoder of R86 reads a command exactly where the reserved bits are 0 and the fields are the command's. -/
theorem decode_eq_instr_iff {w : Word} {i : Instr} :
    decode w = .instr i ↔ highReserved w = 0 ∧ lowReserved w = 0 ∧ CommandFields w i := by
  constructor
  · intro h
    obtain ⟨hhigh, hlow, hop⟩ := fields_of_decode_eq_instr h
    refine ⟨hhigh, hlow, ?_⟩
    rcases hop with ⟨ho, hz, hn, rfl⟩ | ⟨ho, hz, rfl⟩ | ⟨ho, hz, hn, rfl⟩ | ⟨ho, hz, hn, rfl⟩ | ⟨ho, hz, rfl⟩ |
      ⟨ho, hn, rfl⟩
    · exact ⟨ho, hz, hn⟩
    · exact ⟨ho, hz, rfl⟩
    · exact ⟨ho, hz, hn⟩
    · exact ⟨ho, hz, hn⟩
    · exact ⟨ho, hz, rfl⟩
    · exact ⟨ho, hn, rfl⟩
  · rintro ⟨hhigh, hlow, hfields⟩
    cases i with
    | nop | loaddef | maxchars =>
      obtain ⟨ho, hz, hn⟩ := hfields
      simp [decode, decodePlain, hhigh, hlow, ho, hz, hn]
    | config n | encode n =>
      obtain ⟨ho, hz, rfl⟩ := hfields
      simp [decode, decodeWithLength, hhigh, hlow, ho, hz]
    | decode zf =>
      obtain ⟨ho, hn, rfl⟩ := hfields
      simp [decode, hhigh, hlow, ho, hn]

/-- Which fields a word has when it is some command's: OP names a command, N is 0 but for CONFIG and ENCODE, ZF is 0 but
for DECODE. -/
theorem exists_commandFields_iff (w : Word) :
    (∃ i, CommandFields w i) ↔
      (opField w).toNat < 6 ∧ (nField w = 0 ∨ opField w = 1 ∨ opField w = 4) ∧ (zfField w = false ∨ opField w = 5) := by
  constructor
  · rintro ⟨i, hfields⟩
    cases i with
    | nop | loaddef | maxchars => obtain ⟨ho, hz, hn⟩ := hfields; simp [ho, hz, hn]
    | config n | encode n => obtain ⟨ho, hz, -⟩ := hfields; simp [ho, hz]
    | decode zf => obtain ⟨ho, hn, -⟩ := hfields; simp [ho, hn]
  · rintro ⟨hlt, hn, hz⟩
    have six : ∀ op : BitVec 4, op.toNat < 6 → op = 0 ∨ op = 1 ∨ op = 2 ∨ op = 3 ∨ op = 4 ∨ op = 5 := by decide
    rcases six _ hlt with ho | ho | ho | ho | ho | ho <;> simp only [ho] at hn hz
    · exact ⟨.nop, ho, by simpa using hz, by simpa using hn⟩
    · exact ⟨.config _, ho, by simpa using hz, rfl⟩
    · exact ⟨.loaddef, ho, by simpa using hz, by simpa using hn⟩
    · exact ⟨.maxchars, ho, by simpa using hz, by simpa using hn⟩
    · exact ⟨.encode _, ho, by simpa using hz, rfl⟩
    · exact ⟨.decode _, ho, by simpa using hn, rfl⟩

end Sys2Proof
end

section
/-! ### The rows of the table of legal words -/

namespace Sys2Proof

/-- Words put together of fields of the same widths are equal exactly when their fields are. -/
theorem append_eq_append_iff {m n : Nat} {a c : BitVec m} {b d : BitVec n} : a ++ b = c ++ d ↔ a = c ∧ b = d := by
  constructor
  · intro h
    obtain rfl : b = d := by
      rw [← BitVec.setWidth_append_eq_right (a := a) (b := b), h, BitVec.setWidth_append_eq_right]
    exact ⟨(BitVec.append_left_inj b).1 h, rfl⟩
  · rintro ⟨rfl, rfl⟩
    rfl

/-- A word matches a row exactly when each field, masked, is the pattern's. -/
theorem word_and_eq_fields_iff {w : Word} (high high' : BitVec 17) (n n' : BitVec 7) (low low' : BitVec 3)
    (zf zf' : Bool) (op op' : BitVec 4) :
    w &&& (high ++ n ++ low ++ BitVec.ofBool zf ++ op) = high' ++ n' ++ low' ++ BitVec.ofBool zf' ++ op' ↔
      highReserved w &&& high = high' ∧ nField w &&& n = n' ∧ lowReserved w &&& low = low' ∧
        (zfField w && zf) = zf' ∧ opField w &&& op = op' := by
  rw [word_and_fields]
  refine append_eq_append_iff.trans ?_
  simp only [append_eq_append_iff, BitVec.ofBool_eq_iff_eq, and_assoc]

variable {w : Word}

/-- The rows of NOP, LOADDEF and MAXCHARS: no bit but OP is free. -/
theorem and_fullMask_eq_iff (op : BitVec 4) :
    w &&& 0xFFFFFFFF = 0#17 ++ 0#7 ++ 0#3 ++ BitVec.ofBool false ++ op ↔
      highReserved w = 0 ∧ lowReserved w = 0 ∧ opField w = op ∧ zfField w = false ∧ nField w = 0 := by
  refine (word_and_eq_fields_iff (.allOnes 17) 0 (.allOnes 7) 0 (.allOnes 3) 0 true false (.allOnes 4) op).trans ?_
  simp only [BitVec.and_allOnes, Bool.and_true]
  tauto

/-- The rows of CONFIG and ENCODE: N is free. -/
theorem and_lengthMask_eq_iff (op : BitVec 4) :
    w &&& 0xFFFF80FF = 0#17 ++ 0#7 ++ 0#3 ++ BitVec.ofBool false ++ op ↔
      highReserved w = 0 ∧ lowReserved w = 0 ∧ opField w = op ∧ zfField w = false := by
  refine (word_and_eq_fields_iff (.allOnes 17) 0 0#7 0 (.allOnes 3) 0 true false (.allOnes 4) op).trans ?_
  simp only [BitVec.and_allOnes, BitVec.and_zero, Bool.and_true]
  tauto

/-- The row of DECODE: ZF is free. -/
theorem and_zeroFillMask_eq_iff (op : BitVec 4) :
    w &&& 0xFFFFFFEF = 0#17 ++ 0#7 ++ 0#3 ++ BitVec.ofBool false ++ op ↔
      highReserved w = 0 ∧ lowReserved w = 0 ∧ opField w = op ∧ nField w = 0 := by
  refine (word_and_eq_fields_iff (.allOnes 17) 0 (.allOnes 7) 0 (.allOnes 3) 0 false false (.allOnes 4) op).trans ?_
  simp only [BitVec.and_allOnes, Bool.and_false]
  tauto

theorem decode_eq_nop_iff : decode w = .instr .nop ↔ w &&& 0xFFFFFFFF = 0x00000000 :=
  decode_eq_instr_iff.trans (and_fullMask_eq_iff 0).symm

theorem decode_eq_config_iff {n : Nat} :
    decode w = .instr (.config n) ↔ w &&& 0xFFFF80FF = 0x00000001 ∧ n = (nField w).toNat := by
  refine Iff.trans ?_ (and_congr_left' (and_lengthMask_eq_iff 1).symm)
  simp only [decode_eq_instr_iff, CommandFields, and_assoc]

theorem decode_eq_loaddef_iff : decode w = .instr .loaddef ↔ w &&& 0xFFFFFFFF = 0x00000002 :=
  decode_eq_instr_iff.trans (and_fullMask_eq_iff 2).symm

theorem decode_eq_maxchars_iff : decode w = .instr .maxchars ↔ w &&& 0xFFFFFFFF = 0x00000003 :=
  decode_eq_instr_iff.trans (and_fullMask_eq_iff 3).symm

theorem decode_eq_encode_iff {n : Nat} :
    decode w = .instr (.encode n) ↔ w &&& 0xFFFF80FF = 0x00000004 ∧ n = (nField w).toNat := by
  refine Iff.trans ?_ (and_congr_left' (and_lengthMask_eq_iff 4).symm)
  simp only [decode_eq_instr_iff, CommandFields, and_assoc]

theorem decode_eq_decode_iff {zf : Bool} :
    decode w = .instr (.decode zf) ↔ w &&& 0xFFFFFFEF = 0x00000005 ∧ zf = zfField w := by
  refine Iff.trans ?_ (and_congr_left' (and_zeroFillMask_eq_iff 5).symm)
  simp only [decode_eq_instr_iff, CommandFields, and_assoc]

theorem OpcodeRow.accepts_iff {r : OpcodeRow} : r.accepts w = true ↔ w &&& r.mask = r.pattern := beq_iff_eq

/-- A word that matches a row decodes to the row's command. -/
theorem decode_of_row_accepts {r : OpcodeRow} (hr : r ∈ opcodeRows) (h : r.accepts w = true) :
    ∃ i, decode w = .instr i := by
  rw [OpcodeRow.accepts_iff] at h
  simp only [opcodeRows, List.mem_cons, List.not_mem_nil, or_false] at hr
  rcases hr with rfl | rfl | rfl | rfl | rfl | rfl
  · exact ⟨_, decode_eq_nop_iff.2 h⟩
  · exact ⟨_, decode_eq_config_iff.2 ⟨h, rfl⟩⟩
  · exact ⟨_, decode_eq_loaddef_iff.2 h⟩
  · exact ⟨_, decode_eq_maxchars_iff.2 h⟩
  · exact ⟨_, decode_eq_encode_iff.2 ⟨h, rfl⟩⟩
  · exact ⟨_, decode_eq_decode_iff.2 ⟨h, rfl⟩⟩

/-- A word is legal exactly when it matches a row (30_encoding.md R85). -/
theorem exists_decode_eq_instr_iff : (∃ i, decode w = .instr i) ↔ ∃ r ∈ opcodeRows, r.accepts w = true :=
  ⟨fun ⟨_, h⟩ => row_accepts_of_decode h, fun ⟨_, hr, h⟩ => decode_of_row_accepts hr h⟩

/-- Every mask of the table covers OP, so a row fixes the OP of the words it accepts. -/
theorem opField_eq_of_row_accepts {r : OpcodeRow} (hr : r ∈ opcodeRows) (h : r.accepts w = true) :
    opField w = opField r.pattern := by
  have covered : ∀ r ∈ opcodeRows, opField r.mask = .allOnes 4 := by decide
  calc opField w = opField w &&& opField r.mask := by rw [covered r hr, BitVec.and_allOnes]
    _ = opField (w &&& r.mask) := BitVec.extractLsb'_and.symm
    _ = opField r.pattern := by rw [OpcodeRow.accepts_iff.1 h]

/-- The rows do not overlap: they fix different OPs. -/
theorem row_unique {r r' : OpcodeRow} (hr : r ∈ opcodeRows) (hr' : r' ∈ opcodeRows) (h : r.accepts w = true)
    (h' : r'.accepts w = true) : r = r' := by
  have distinct : ∀ r ∈ opcodeRows, ∀ r' ∈ opcodeRows, opField r.pattern = opField r'.pattern → r = r' := by decide
  exact distinct r hr r' hr' ((opField_eq_of_row_accepts hr h).symm.trans (opField_eq_of_row_accepts hr' h'))

end Sys2Proof
end

section
/-! ### The illegal words -/

namespace Sys2Proof.Machine

variable {w : Word}

theorem noCommand_iff_decode_ne : NoCommand w ↔ ¬ ∃ i, decode w = .instr i := by
  rw [exists_decode_eq_instr_iff]
  simp only [NoCommand, not_exists, not_and, Bool.not_eq_true]

theorem noCommand_iff_illegal : NoCommand w ↔ ∃ why, decode w = .illegal why := by
  refine ⟨decode_of_noCommand, fun ⟨why, hillegal⟩ => noCommand_iff_decode_ne.2 fun ⟨i, hlegal⟩ => ?_⟩
  cases hillegal.symm.trans hlegal

/-- R86's list of the illegal words is the complement of the fields that some command has. -/
theorem noCommand_iff_fields :
    NoCommand w ↔
      6 ≤ (opField w).toNat ∨ highReserved w ≠ 0 ∨ lowReserved w ≠ 0 ∨
      (nField w ≠ 0 ∧ opField w ≠ 1 ∧ opField w ≠ 4) ∨ (zfField w = true ∧ opField w ≠ 5) := by
  have legal : (∃ i, decode w = .instr i) ↔ highReserved w = 0 ∧ lowReserved w = 0 ∧ ∃ i, CommandFields w i := by
    simp only [decode_eq_instr_iff, exists_and_left]
  rw [noCommand_iff_decode_ne, legal, exists_commandFields_iff, ← Nat.not_lt, ← Bool.not_eq_false]
  tauto

/-- The step of a commit, the sample of rst_n taken. -/
theorem step_of_commitsNext {s : State} (h : CommitsNext s) : step s = commitPending (takeSample s) := by
  obtain ⟨hhigh, hdue⟩ := h
  simp [step, hhigh, hdue]

end Sys2Proof.Machine
end

section
/-! ### The statements of 30_encoding.md -/

namespace Sys2Proof.Machine

/-- Settles O3: one equivalence per row, and OP tells the rows apart. -/
theorem eachCommandHasItsRowOfTheTable : Obligations.EachCommandHasItsRowOfTheTable := fun _ =>
  ⟨decode_eq_nop_iff, fun _ => decode_eq_config_iff, decode_eq_loaddef_iff, decode_eq_maxchars_iff,
    fun _ => decode_eq_encode_iff, fun _ => decode_eq_decode_iff, exists_decode_eq_instr_iff,
    fun _ hr _ hr' => row_unique hr hr'⟩

/-- Settles O5: the fields of the illegal words, their acceptance and commit, and the fields of each command. -/
theorem illegalWordsCommitIllegalCmd : Obligations.IllegalWordsCommitIllegalCmd := by
  refine fun w => ⟨noCommand_iff_illegal, noCommand_iff_fields, fun _ s hidle => ?accepted,
    fun hw s hnext hpend => ?commit, fun hhigh hlow => ?decoded⟩
  case accepted =>
    rw [memWrite_regIndex, writeReg_idle _ _ hidle]
    exact ⟨accept_busy s w, accept_pend s w⟩
  case commit =>
    subst hpend
    rw [step_of_commitsNext hnext]
    exact commitPending_of_noCommand hw
  case decoded =>
    have legal {i : Instr} (hfields : CommandFields w i) : decode w = .instr i :=
      decode_eq_instr_iff.2 ⟨hhigh, hlow, hfields⟩
    exact ⟨fun ho hz hn => legal ⟨ho, hz, hn⟩, fun ho hz => legal ⟨ho, hz, rfl⟩, fun ho hz hn => legal ⟨ho, hz, hn⟩,
      fun ho hz hn => legal ⟨ho, hz, hn⟩, fun ho hz => legal ⟨ho, hz, rfl⟩, fun ho hn => legal ⟨ho, hn, rfl⟩⟩

end Sys2Proof.Machine
end

/-! ## The codec commands (41_codec_config.md): the layer of facts, then the statements -/

section
/-! ### MAXCHARS at its commit -/

namespace Sys2Proof.Machine

/-- R106: RESULT takes the entry of the power table's bounds for CSLEN, in every state. -/
theorem exec_maxchars_eq (s : State) :
    exec .maxchars s =
      .next { s with result := BitVec.ofNat 32 (maxC (setLength s)), err := .ok, errIdx := 0, busy := false } :=
  rfl

/-- R107: the length 0 of an inert codec has no row in the power table. -/
theorem maxC_setLength_of_inert {s : State} (h : InertCodec s) : maxC (setLength s) = 0 := by
  have hzero : setLength s = 0 := congrArg BitVec.toNat h
  rw [hzero]
  exact maxC_of_not_legal rfl

end Sys2Proof.Machine
end

section
/-! ### The statements of 41_codec_config.md -/

namespace Sys2Proof.Machine

/-- Settles O29: MAXCHARS returns MAXC(CSLEN), whose value on each range of lengths is R62's (O23). -/
theorem maxcharsReturnsTheBound : Obligations.MaxcharsReturnsTheBound := by
  intro s
  obtain ⟨-, -, hnine, height, hseven, hsix, hfive⟩ := maxcIsTheLargestExponent
  exact ⟨maxC (setLength s), exec_maxchars_eq s, maxC_setLength_of_inert, hnine _, height _, hseven _, hsix _, hfive _⟩

end Sys2Proof.Machine
end

/-! ## ENCODE (42_encode.md): the layer of facts, then the statements

The facts come in the order of the definitions they speak of: the lookup (R132), ENCODE's loop (R130), its commit. -/

section
/-! ### The lookup (R132) -/

namespace Sys2Proof.Machine

section
variable {set : Vector Byte 64} {L : Nat} {b : Byte}

theorem lookup_eq_some_iff {d : Nat} :
    lookup set L b = some d ↔ d < L ∧ byteAt set d = b ∧ ∀ k, k < d → byteAt set k ≠ b := by
  simp only [lookup, List.find?_range_eq_some, List.mem_range, beq_iff_eq, Bool.not_eq_true', beq_eq_false_iff_ne]
  exact and_left_comm

theorem lookup_eq_none_iff : lookup set L b = none ↔ ∀ k, k < L → byteAt set k ≠ b := by
  refine ⟨fun h _ => lookup_none h, fun h => ?_⟩
  cases hlookup : lookup set L b with
  | none => rfl
  | some d =>
    obtain ⟨hd, hb⟩ := lookup_sound hlookup
    exact absurd hb (h d hd)

end

theorem lookup_eq_none_iff_not_inSet {s : State} {b : Byte} : lookup s.cs (setLength s) b = none ↔ ¬ InSet s b := by
  simp only [lookup_eq_none_iff, InSet, not_exists, not_and]

/-- The zero symbol's digit is 0, even where the set holds it again at a higher position. -/
theorem lookup_byteAt_zero (set : Vector Byte 64) {L : Nat} (hL : 0 < L) : lookup set L (byteAt set 0) = some 0 :=
  lookup_eq_some_iff.2 ⟨hL, rfl, fun _ hk => absurd hk (Nat.not_lt_zero _)⟩

end Sys2Proof.Machine
end

section
/-! ### ENCODE's loop (R130): how it splits, where it stops, and what zero symbols add -/

namespace Sys2Proof.Machine

section
variable {L : Nat} {cs : Vector Byte 64} {src : Vector Byte 16}

/-- Everything one iteration can do, however many symbols are still to come after it. -/
theorem sumDigits_succ_cases (L : Nat) (cs : Vector Byte 64) (src : Vector Byte 16) (i : Nat) (acc : Word) :
    (lookup cs L (byteAt src i) = none ∧ ∀ k, sumDigits L cs src (k + 1) i acc = ⟨acc, i, .invalidSymbol⟩) ∨
    (∀ k, sumDigits L cs src (k + 1) i acc = ⟨acc, i, .overflow⟩) ∨
    ∃ acc', ∀ k, sumDigits L cs src (k + 1) i acc = sumDigits L cs src k (i + 1) acc' := by
  cases hlookup : lookup cs L (byteAt src i) with
  | none => exact .inl ⟨rfl, fun k => by rw [sumDigits, hlookup]⟩
  | some d =>
    cases hover : encodeOverflows acc d (pwr L i) with
    | true => exact .inr (.inl fun k => by simp [sumDigits, hlookup, hover])
    | false => exact .inr (.inr ⟨acc + BitVec.ofNat 32 d * pwr L i, fun k => by simp [sumDigits, hlookup, hover]⟩)

/-- A loop whose first `j` symbols sum goes on from what they leave. -/
theorem sumDigits_add {j i : Nat} {acc : Word} (k : Nat) (h : (sumDigits L cs src j i acc).err = .ok) :
    sumDigits L cs src (j + k) i acc = sumDigits L cs src k (i + j) (sumDigits L cs src j i acc).acc := by
  induction j generalizing i acc with
  | zero => simp [sumDigits]
  | succ j ih =>
    rw [Nat.add_right_comm j 1 k, show i + (j + 1) = i + 1 + j by omega]
    rcases sumDigits_succ_cases L cs src i acc with ⟨-, hstop⟩ | hstop | ⟨acc', hnext⟩
    · rw [hstop] at h; cases h
    · rw [hstop] at h; cases h
    · rw [hnext] at h ⊢
      rw [hnext]
      exact ih h

/-- The loop stops for a symbol only where the lookup finds none. -/
theorem lookup_eq_none_of_sumDigits {k i : Nat} {acc : Word}
    (h : (sumDigits L cs src k i acc).err = .invalidSymbol) :
    lookup cs L (byteAt src (sumDigits L cs src k i acc).pos) = none := by
  induction k generalizing i acc with
  | zero => cases h
  | succ k ih =>
    rcases sumDigits_succ_cases L cs src i acc with ⟨hnone, hstop⟩ | hstop | ⟨acc', hnext⟩
    · rwa [hstop]
    · rw [hstop] at h; cases h
    · rw [hnext] at h ⊢
      exact ih h

/-- Symbols that the lookup finds are all summed. -/
theorem sumDigits_err_eq_ok {n : Nat} (hn : n ≤ maxC L) (h : ∀ j, j < n → lookup cs L (byteAt src j) ≠ none) :
    (sumDigits L cs src n 0 0).err = .ok := by
  rcases sumDigits_err L cs src n 0 0 with hok | hmissing | hover
  · exact hok
  · obtain ⟨-, -, hpos⟩ := sumDigits_pos L cs src n 0 0
    have hlt := hpos (by rw [hmissing]; decide)
    exact absurd (lookup_eq_none_of_sumDigits hmissing) (h _ (by omega))
  · exact absurd hover (sumDigits_zero_ne_overflow cs src hn)

/-- The loop ends at the first symbol that the lookup does not find. -/
theorem sumDigits_of_firstMissing {n i : Nat} (hn : n ≤ maxC L) (hi : i < n)
    (hmissing : lookup cs L (byteAt src i) = none) (hfound : ∀ j, j < i → lookup cs L (byteAt src j) ≠ none) :
    ∃ acc, sumDigits L cs src n 0 0 = ⟨acc, i, .invalidSymbol⟩ := by
  obtain ⟨k, rfl⟩ : ∃ k, n = i + (k + 1) := ⟨n - i - 1, by omega⟩
  have hsummed : (sumDigits L cs src i 0 0).err = .ok := sumDigits_err_eq_ok (by omega) hfound
  refine ⟨(sumDigits L cs src i 0 0).acc, ?_⟩
  rw [sumDigits_add (k + 1) hsummed, Nat.zero_add, sumDigits, hmissing]

/-- The digit 0 adds nothing to ACC (R137). -/
theorem sumDigits_zeroSymbols (hL : 0 < L) {k i : Nat} (acc : Word)
    (h : ∀ j, i ≤ j → j < i + k → byteAt src j = byteAt cs 0) :
    sumDigits L cs src k i acc = ⟨acc, i + k, .ok⟩ := by
  induction k generalizing i with
  | zero => rfl
  | succ k ih =>
    have hfits : encodeOverflows acc 0 (pwr L i) = false := by
      have hacc := acc.isLt
      simp only [encodeOverflows, maxCode, Nat.zero_mul, Bool.or_eq_false_iff, decide_eq_false_iff_not]
      omega
    have hrest := ih (i := i + 1) fun j hle hlt => h j (by omega) (by omega)
    rw [sumDigits, h i le_rfl (by omega), lookup_byteAt_zero cs hL]
    simpa [hfits, Nat.add_right_comm i 1 k, Nat.add_assoc] using hrest

end

end Sys2Proof.Machine
end

section
/-! ### The commit of ENCODE -/

namespace Sys2Proof.Machine

theorem setLength_of_inert {s : State} (h : InertCodec s) : setLength s = 0 := congrArg BitVec.toNat h

theorem setLength_pos_of_valid {s : State} (h : ValidCodec s) : 0 < setLength s := by
  have hten := ((legalLength_iff (setLength s)).1 h).1
  omega

/-- On a valid codec the length is checked next, and the symbols are read only if it fits (R130, R133). -/
theorem exec_encode_of_valid {s : State} (n : Nat) (h : ValidCodec s) :
    exec (.encode n) s =
      if maxC (setLength s) < n then .next { s with err := .lengthExceeded, errIdx := 0, busy := false }
      else commitSummed (sumDigits (setLength s) s.cs s.src n 0 0) s :=
  if_neg (setLength_pos_of_valid h).ne'

theorem exec_encode_of_fits {n : Nat} {s : State} (h : ValidCodec s) (hn : n ≤ maxC (setLength s)) :
    exec (.encode n) s = commitSummed (sumDigits (setLength s) s.cs s.src n 0 0) s := by
  rw [exec_encode_of_valid n h, if_neg (Nat.not_lt.2 hn)]

/-- ENCODE completes only where its loop ends with OK, and RESULT takes ACC. -/
theorem commitSummed_eq_ok {r : Summed} {s t : State} (h : commitSummed r s = .next t) (ht : t.err = .ok) :
    r.err = .ok ∧ t.result = r.acc := by
  unfold commitSummed at h
  split at h
  case h_1 hok => cases h; exact ⟨hok, rfl⟩
  case h_2 hmissing => cases h; cases ht
  case h_3 hok _ => cases h; exact absurd ht hok

end Sys2Proof.Machine
end

section
/-! ### The statements of 42_encode.md -/

namespace Sys2Proof.Machine

/-- Settles O30: the length 0 of an inert codec is examined before anything else. -/
theorem encodeOfAnInertCodecFails : Obligations.EncodeOfAnInertCodecFails :=
  fun _ _ h => if_pos (setLength_of_inert h)

/-- Settles O31: MAXC is at most 9, so n at least 10 is beyond it too. -/
theorem encodeBeyondMaxcFails : Obligations.EncodeBeyondMaxcFails := by
  intro n s hvalid hlong
  have hnine := maxC_le_nine (setLength s)
  rw [exec_encode_of_valid n hvalid, if_pos (by omega)]

/-- Settles O32: LOOKUP searches the positions below L from 0 on. -/
theorem lookupFindsTheLowestPosition : Obligations.LookupFindsTheLowestPosition :=
  fun _ _ _ => ⟨fun _ => lookup_eq_some_iff, lookup_eq_none_iff⟩

/-- Settles O33: the loop ends at the first missing symbol, whose index is below MAXC and so fits ERRIDX. -/
theorem encodeReportsTheFirstMissingSymbol : Obligations.EncodeReportsTheFirstMissingSymbol := by
  intro n i s hvalid hn hi hmissing hfound
  obtain ⟨acc, hloop⟩ := sumDigits_of_firstMissing hn hi (lookup_eq_none_iff_not_inSet.2 hmissing)
    fun j hj hnone => lookup_eq_none_iff_not_inSet.1 hnone (hfound j hj)
  have hnine := maxC_le_nine (setLength s)
  refine ⟨(setSummed ⟨acc, i, .invalidSymbol⟩ s).work, BitVec.ofNat 4 i, ?_, Nat.mod_eq_of_lt (by omega)⟩
  rw [exec_encode_of_fits hvalid hn, hloop]
  rfl

/-- Settles O37: the loop over m symbols is the loop over n, then over zero symbols only, which leave ACC as it is. -/
theorem trailingZeroSymbolsAreLost : Obligations.TrailingZeroSymbolsAreLost := by
  intro n m s t hvalid hnm hm hzero ht herr
  obtain ⟨k, rfl⟩ := Nat.exists_eq_add_of_le hnm
  rw [exec_encode_of_fits hvalid (hnm.trans hm)] at ht
  obtain ⟨hok, hresult⟩ := commitSummed_eq_ok ht herr
  rw [exec_encode_of_fits hvalid hm, sumDigits_add k hok, Nat.zero_add,
    sumDigits_zeroSymbols (setLength_pos_of_valid hvalid) _ hzero]
  exact ⟨_, rfl, rfl, hresult.symm⟩

end Sys2Proof.Machine
end

/-! ## DECODE (43_decode.md): the layer of facts, then the statements

The facts come in the order in which the round trip needs them: DECODE's loop and its commit (R150 to R156), the sum
that ENCODE leaves and its digits (R130), strings padded with the zero symbol and trimmed of it (R157). -/

section
/-! ### DECODE's loop (R150 to R153) -/

namespace Sys2Proof.Machine

section
variable {L : Nat}

/-- The position j is emitted while zero-fill goes on or the code still has a digit there or above. -/
theorem lt_emitDigits_length_iff (hL : 0 < L) (zf : Bool) (cs : Vector Byte 64) (m code j : Nat) :
    j < (emitDigits L zf cs m code).symbols.length ↔ j < m ∧ (zf = true ∨ L ^ j ≤ code) := by
  induction m generalizing code j with
  | zero => simp [emitDigits]
  | succ m ih =>
    rw [emitDigits]
    split
    case isTrue hpos =>
      cases j with
      | zero => simp [show 1 ≤ code from hpos]
      | succ j => simp [ih, Nat.le_div_iff_mul_le hL, pow_succ]
    case isFalse hzero =>
      obtain rfl : code = 0 := by omega
      cases zf with
      | true => cases j <;> simp [ih]
      | false => simp [hL.ne']

/-- The symbol emitted at position k is that of digit k of the code, which is 0 past the most significant one. -/
theorem emitDigits_getD (zf : Bool) (cs : Vector Byte 64) (m code : Nat) {k : Nat}
    (hk : k < (emitDigits L zf cs m code).symbols.length) :
    (emitDigits L zf cs m code).symbols.getD k 0x00 = byteAt cs (code / L ^ k % L) := by
  induction m generalizing code k with
  | zero => simp [emitDigits] at hk
  | succ m ih =>
    rw [emitDigits] at hk ⊢
    split at hk
    case isTrue hpos =>
      rw [if_pos hpos]
      cases k with
      | zero => simp
      | succ k =>
        rw [List.getD_cons_succ, ih _ (Nat.lt_of_succ_lt_succ hk), Nat.div_div_eq_div_mul, ← pow_succ']
    case isFalse hzero =>
      rw [if_neg hzero]
      obtain rfl : code = 0 := by omega
      split at hk
      case isTrue hzf =>
        rw [if_pos hzf]
        cases k with
        | zero => simp
        | succ k => simpa using ih 0 (Nat.lt_of_succ_lt_succ hk)
      case isFalse => simp at hk

/-- Every position is emitted with zero-fill (R152), and where the code has digits at all of them (R154). -/
theorem emitDigits_length_eq (hL : 0 < L) {zf : Bool} (cs : Vector Byte 64) {m code : Nat}
    (h : zf = true ∨ L ^ m ≤ code) : (emitDigits L zf cs m code).symbols.length = m := by
  refine le_antisymm (emitDigits_length_le L zf cs m code) (Nat.le_of_not_lt fun hlt => ?_)
  have hstop := (lt_emitDigits_length_iff hL zf cs m code _).not.1 (lt_irrefl _)
  exact hstop ⟨hlt, h.imp_right (Nat.pow_le_pow_right hL hlt.le).trans⟩

/-- Without zero-fill the loop emits as many symbols as the code has digits (R153). -/
theorem emitDigits_length_least (hL : 0 < L) (cs : Vector Byte 64) {m code : Nat} (hcode : code < L ^ m) :
    code < L ^ (emitDigits L false cs m code).symbols.length ∧
      ∀ j, j < (emitDigits L false cs m code).symbols.length → L ^ j ≤ code := by
  have hemitted := lt_emitDigits_length_iff hL false cs m code
  refine ⟨Nat.lt_of_not_le fun hle => ?_, fun j hj => ((hemitted j).1 hj).2.resolve_left Bool.false_ne_true⟩
  have hlt : (emitDigits L false cs m code).symbols.length < m :=
    (pow_right_mono₀ hL).reflect_lt (hle.trans_lt hcode)
  exact lt_irrefl _ ((hemitted _).2 ⟨hlt, .inr hle⟩)

/-- REM is used up exactly when the code has no digit beyond the loop's positions (R154). -/
theorem emitDigits_rem_eq_zero_iff (hL : 0 < L) (zf : Bool) (cs : Vector Byte 64) (m code : Nat) :
    (emitDigits L zf cs m code).rem = 0 ↔ code < L ^ m := by
  rw [emitDigits_rem, Nat.div_eq_zero_iff_lt (Nat.pow_pos hL)]

/-- The 16 bytes of OUT: the symbols emitted, then 0x00 (R156). -/
theorem byteAt_outBytes_emitDigits (zf : Bool) (cs : Vector Byte 64) {m : Nat} (hm : m ≤ 16) (code k : Nat) :
    byteAt (outBytes (emitDigits L zf cs m code).symbols) k =
      if k < (emitDigits L zf cs m code).symbols.length then byteAt cs (code / L ^ k % L) else 0x00 := by
  have hlen := emitDigits_length_le L zf cs m code
  rw [byteAt_outBytes]
  by_cases hk : k < (emitDigits L zf cs m code).symbols.length
  · rw [if_pos (by omega), if_pos hk, emitDigits_getD zf cs m code hk]
  · rw [if_neg hk, List.getD_eq_default _ _ (by omega), ite_self]

end

end Sys2Proof.Machine
end

section
/-! ### The commit of DECODE -/

namespace Sys2Proof.Machine

/-- What DECODE's loop leaves for the state's codec and CODE_IN. -/
def emitted (zf : Bool) (s : State) : Emitted :=
  emitDigits (setLength s) zf s.cs (maxC (setLength s)) s.codeIn.toNat

theorem exec_decode_of_valid (zf : Bool) {s : State} (h : ValidCodec s) :
    exec (.decode zf) s = .next
      { s with work := (setEmittedWork (emitted zf s) s).work, dst := outBytes (emitted zf s).symbols,
               dstLen := BitVec.ofNat 4 (emitted zf s).symbols.length, errIdx := 0, busy := false,
               err := if setLength s ^ maxC (setLength s) ≤ s.codeIn.toNat then .lengthExceeded else .ok } := by
  have hpos := setLength_pos_of_valid h
  rcases execDecode_cases zf s with ⟨hinert, -⟩ | ⟨-, r, hr, hexec⟩
  · exact absurd hinert hpos.ne'
  · obtain rfl : r = emitted zf s := hr
    have herr : (if (emitted zf s).rem = 0 then Err.ok else .lengthExceeded) =
        if setLength s ^ maxC (setLength s) ≤ s.codeIn.toNat then .lengthExceeded else .ok := by
      simp only [emitted, emitDigits_rem_eq_zero_iff hpos, ← Nat.not_lt, ite_not]
    rw [← herr]
    exact hexec

end Sys2Proof.Machine
end

section
/-! ### The sum that ENCODE leaves, and its digits (R130) -/

namespace Sys2Proof.Machine

/-- ENCODE's loop over symbols whose digits are `ds`, from position i on: it never stops and never wraps. -/
theorem sumDigits_of_digits {L : Nat} (hL : legalLength L = true) {cs : Vector Byte 64} {src : Vector Byte 16}
    {ds : List Nat} {i : Nat} {acc : Word} (hlen : i + ds.length ≤ maxC L) (hacc : acc.toNat < L ^ i)
    (hds : ∀ j, j < ds.length → lookup cs L (byteAt src (i + j)) = some (ds.getD j 0)) :
    ∃ acc', sumDigits L cs src ds.length i acc = ⟨acc', i + ds.length, .ok⟩ ∧
      acc'.toNat = acc.toNat + L ^ i * numericForm L ds := by
  induction ds generalizing i acc with
  | nil => exact ⟨acc, rfl, rfl⟩
  | cons d ds ih =>
    rw [List.length_cons] at hlen
    have hlookup : lookup cs L (byteAt src i) = some d := hds 0 (by simp)
    have hd : d < L := (lookup_sound hlookup).1
    have hi : i < maxC L := by omega
    have hsum := add_digit_toNat hL hi hacc hd
    obtain ⟨acc', hloop, hacc'⟩ := ih (i := i + 1) (acc := acc + BitVec.ofNat 32 d * pwr L i) (by omega)
      (hsum ▸ add_digit_mul_pow_lt hacc hd)
      fun j hj => by simpa [Nat.add_right_comm, Nat.add_assoc] using hds (j + 1) (by simpa using hj)
    refine ⟨acc', ?_, ?_⟩
    · rw [List.length_cons, sumDigits, hlookup]
      simpa [encodeOverflows_eq_false hL hi hacc hd, Nat.add_right_comm, Nat.add_assoc] using hloop
    · rw [hacc', hsum, numericForm]
      ring

/-- ENCODE of symbols whose digits are `ds` completes with their numeric form (R130, R131). -/
theorem exec_encode_of_digits {s : State} {ds : List Nat} (hvalid : ValidCodec s)
    (hlen : ds.length ≤ maxC (setLength s))
    (hds : ∀ i, i < ds.length → lookup s.cs (setLength s) (byteAt s.src i) = some (ds.getD i 0)) : ∃ wk r,
      exec (.encode ds.length) s = .next { s with work := wk, result := r, err := .ok, errIdx := 0, busy := false } ∧
      r.toNat = numericForm (setLength s) ds := by
  obtain ⟨acc, hloop, hacc⟩ := sumDigits_of_digits hvalid (ds := ds) (i := 0) (acc := 0) (by simpa using hlen)
    (by simp) (by simpa using hds)
  refine ⟨(setSummed ⟨acc, 0 + ds.length, .ok⟩ s).work, acc, ?_, by simpa using hacc⟩
  rw [exec_encode_of_fits hvalid hlen, hloop]
  rfl

/-- Division and remainder give back the digits of a numeric form, and 0 past the last. -/
theorem numericForm_div_pow_mod {L : Nat} {ds : List Nat} (hds : ∀ d ∈ ds, d < L) (k : Nat) :
    numericForm L ds / L ^ k % L = ds.getD k 0 := by
  induction ds generalizing k with
  | nil => simp [numericForm]
  | cons d ds ih =>
    obtain ⟨hd, hds⟩ := List.forall_mem_cons.1 hds
    cases k with
    | zero => simp [numericForm, Nat.mod_eq_of_lt hd]
    | succ k =>
      have hL : 0 < L := Nat.zero_lt_of_lt hd
      have hrest : (d + L * numericForm L ds) / L = numericForm L ds := by
        rw [Nat.add_mul_div_left _ _ hL, Nat.div_eq_of_lt hd, Nat.zero_add]
      rw [numericForm, pow_succ', ← Nat.div_div_eq_div_mul, hrest, List.getD_cons_succ, ih hds]

/-- A code of exactly k + 1 digits has a digit other than 0 at position k. -/
theorem div_pow_mod_ne_zero {L code k : Nat} (hL : 0 < L) (hlow : L ^ k ≤ code) (hhigh : code < L ^ (k + 1)) :
    code / L ^ k % L ≠ 0 := by
  rw [Nat.mod_eq_of_lt (Nat.div_lt_of_lt_mul (pow_succ L k ▸ hhigh))]
  exact (Nat.div_pos hlow (Nat.pow_pos hL)).ne'

end Sys2Proof.Machine
end

section
/-! ### Strings padded with the zero symbol, and trimmed of it (R157)

`str.getD k z` is the symbol at position k of `str` padded with `z` without end. -/

namespace Sys2Proof.Machine

section
variable {z : Byte} {str : List Byte}

theorem map_getD_range_eq_append_replicate {m : Nat} (h : str.length ≤ m) :
    (List.range m).map (str.getD · z) = str ++ List.replicate (m - str.length) z := by
  refine List.ext_getElem (by simp [h]) fun k hk _ => ?_
  rw [List.getElem_map, List.getElem_range, List.getElem_append]
  split
  case isTrue hlt => exact List.getD_eq_getElem _ _ hlt
  case isFalse hge => rw [List.getD_eq_default _ _ (by omega), List.getElem_replicate]

/-- A `z` at the end is no different from the padding. -/
theorem getD_append_singleton_self (k : Nat) : (str ++ [z]).getD k z = str.getD k z := by
  rcases Nat.lt_or_ge k str.length with hlt | hge
  · exact List.getD_append _ _ _ _ hlt
  · rw [List.getD_append_right _ _ _ _ hge, List.getD_eq_default _ _ hge]
    cases k - str.length <;> simp

@[simp] theorem trimTrailing_append_self : trimTrailing z (str ++ [z]) = trimTrailing z str := by
  simp [trimTrailing]

theorem trimTrailing_append_of_ne {x : Byte} (h : x ≠ z) : trimTrailing z (str ++ [x]) = str ++ [x] := by
  simp [trimTrailing, h]

/-- Trimming keeps the p symbols up to the last one that is not `z`. -/
theorem trimTrailing_eq_map_getD_range {p : Nat} (hpad : ∀ k, p ≤ k → str.getD k z = z)
    (hlast : ∀ k, p = k + 1 → str.getD k z ≠ z) :
    trimTrailing z str = (List.range p).map (str.getD · z) := by
  induction str using List.reverseRecOn with
  | nil =>
    cases p with
    | zero => rfl
    | succ k => exact absurd (List.getD_nil ..) (hlast k rfl)
  | append_singleton str x ih =>
    by_cases hx : x = z
    · subst hx
      simp only [getD_append_singleton_self] at hpad hlast ⊢
      rw [trimTrailing_append_self, ih hpad hlast]
    · have hkept : ¬ p ≤ str.length := fun hle => hx (by simpa using hpad str.length hle)
      have hend : p ≤ (str ++ [x]).length := Nat.le_of_not_lt fun hlt =>
        hlast (p - 1) (by omega) (List.getD_eq_default _ _ (by omega))
      obtain rfl : p = (str ++ [x]).length := by
        rw [List.length_append, List.length_singleton] at hend ⊢
        omega
      rw [trimTrailing_append_of_ne hx, map_getD_range_eq_append_replicate le_rfl]
      simp

end

end Sys2Proof.Machine
end

section
/-! ### The digits of a string of the set -/

namespace Sys2Proof.Machine

/-- The digit of a symbol of the set: LOOKUP's position (R132). -/
def digitOf (s : State) (b : Byte) : Nat := (lookup s.cs (setLength s) b).getD 0

variable {s : State}

theorem lookup_eq_digitOf {b : Byte} (h : InSet s b) : lookup s.cs (setLength s) b = some (digitOf s b) := by
  rw [digitOf]
  cases hlookup : lookup s.cs (setLength s) b with
  | none => exact absurd h (lookup_eq_none_iff_not_inSet.1 hlookup)
  | some d => rfl

theorem digitOf_lt {b : Byte} (h : InSet s b) : digitOf s b < setLength s := (lookup_sound (lookup_eq_digitOf h)).1

theorem byteAt_digitOf {b : Byte} (h : InSet s b) : byteAt s.cs (digitOf s b) = b :=
  (lookup_sound (lookup_eq_digitOf h)).2

theorem digitOf_zeroSymbol (h : ValidCodec s) : digitOf s (zeroSymbol s) = 0 := by
  rw [digitOf, zeroSymbol, lookup_byteAt_zero s.cs (setLength_pos_of_valid h)]
  rfl

theorem zeroSymbol_inSet (h : ValidCodec s) : InSet s (zeroSymbol s) := ⟨0, setLength_pos_of_valid h, rfl⟩

@[simp] theorem srcString_length (n : Nat) (s : State) : (srcString n s).length = n := by simp [srcString]

theorem srcString_getD {n i : Nat} (s : State) (z : Byte) (hi : i < n) : (srcString n s).getD i z = byteAt s.src i := by
  simp [srcString, hi]

/-- Position k of a padded string of the set has the digit that its symbol has. -/
theorem map_digitOf_getD (h : ValidCodec s) (str : List Byte) (k : Nat) :
    (str.map (digitOf s)).getD k 0 = digitOf s (str.getD k (zeroSymbol s)) := by
  rw [← digitOf_zeroSymbol h, List.getD_map]

theorem lt_of_mem_map_digitOf {str : List Byte} (hstr : ∀ b ∈ str, InSet s b) :
    ∀ d ∈ str.map (digitOf s), d < setLength s :=
  List.forall_mem_map.2 fun b hb => digitOf_lt (hstr b hb)

/-- The symbols of the digits of a string's numeric form are the string, padded with the zero symbol. -/
theorem byteAt_numericForm_digit (h : ValidCodec s) {str : List Byte} (hstr : ∀ b ∈ str, InSet s b) (k : Nat) :
    byteAt s.cs (numericForm (setLength s) (str.map (digitOf s)) / setLength s ^ k % setLength s) =
      str.getD k (zeroSymbol s) := by
  have hsymbol : InSet s (str.getD k (zeroSymbol s)) := by
    rcases Nat.lt_or_ge k str.length with hlt | hge
    · rw [List.getD_eq_getElem _ _ hlt]
      exact hstr _ (List.getElem_mem hlt)
    · rw [List.getD_eq_default _ _ hge]
      exact zeroSymbol_inSet h
  rw [numericForm_div_pow_mod (lt_of_mem_map_digitOf hstr), map_digitOf_getD h, byteAt_digitOf hsymbol]

/-- ENCODE n of a string of the set completes with the numeric form of its digits. -/
theorem exec_encode_of_inSet {n : Nat} (hvalid : ValidCodec s) (hn : n ≤ maxC (setLength s))
    (hstr : ∀ b ∈ srcString n s, InSet s b) : ∃ wk r,
      exec (.encode n) s = .next { s with work := wk, result := r, err := .ok, errIdx := 0, busy := false } ∧
      r.toNat = numericForm (setLength s) ((srcString n s).map (digitOf s)) := by
  have hlen : ((srcString n s).map (digitOf s)).length = n := by simp
  have hfound : ∀ i, i < ((srcString n s).map (digitOf s)).length →
      lookup s.cs (setLength s) (byteAt s.src i) = some (((srcString n s).map (digitOf s)).getD i 0) := by
    intro i hi
    have hsymbol := srcString_getD s (zeroSymbol s) (hlen ▸ hi)
    rw [map_digitOf_getD hvalid, hsymbol]
    exact lookup_eq_digitOf (hstr _ (List.mem_map_of_mem (List.mem_range.2 (hlen ▸ hi))))
  simpa only [hlen] using exec_encode_of_digits hvalid (hlen.symm ▸ hn) hfound

/-- The symbols of a code's p digits are the trimmed string, where the symbols of all its digits, the zeros above the
most significant one included, are the padded string. -/
theorem map_getD_range_eq_trimTrailing {str : List Byte} {code p : Nat} (hvalid : ValidCodec s)
    (hdistinct : DistinctSymbols s)
    (hsymbols : ∀ k, byteAt s.cs (code / setLength s ^ k % setLength s) = str.getD k (zeroSymbol s))
    (hhigh : code < setLength s ^ p) (hlow : ∀ j, j < p → setLength s ^ j ≤ code) :
    (List.range p).map (str.getD · (zeroSymbol s)) = trimTrailing (zeroSymbol s) str := by
  have hpos := setLength_pos_of_valid hvalid
  refine (trimTrailing_eq_map_getD_range (fun k hk => ?past) fun k hk hzero => ?last).symm
  case past =>
    have hcode : code < setLength s ^ k := hhigh.trans_le (Nat.pow_le_pow_right hpos hk)
    rw [← hsymbols, Nat.div_eq_of_lt hcode, Nat.zero_mod]
    rfl
  case last =>
    subst hk
    rw [← hsymbols] at hzero
    exact div_pow_mod_ne_zero hpos (hlow k (by omega)) hhigh (hdistinct _ 0 (Nat.mod_lt _ hpos) hpos hzero)

end Sys2Proof.Machine
end

section
/-! ### The statements of 43_decode.md -/

namespace Sys2Proof.Machine

/-- Settles O38: the length 0 of an inert codec is examined before anything else. -/
theorem decodeOfAnInertCodecFails : Obligations.DecodeOfAnInertCodecFails :=
  fun _ _ h => if_pos (setLength_of_inert h)

/-- Settles O39, by the length and the symbols of what the loop emits. -/
theorem decodeEmitsTheDigits : Obligations.DecodeEmitsTheDigits := by
  intro zf s hvalid
  have hpos := setLength_pos_of_valid hvalid
  have hnine := maxC_le_nine (setLength s)
  have hlen : (emitted zf s).symbols.length ≤ maxC (setLength s) := emitDigits_length_le ..
  refine ⟨_, _, (emitted zf s).symbols.length, _, exec_decode_of_valid zf hvalid, ?_, hlen, hlen.trans hnine,
    fun hzf => ?_, fun hlong => ?_, fun hzf hcode => ?_, byteAt_outBytes_emitDigits _ _ (by omega) _⟩
  · exact Nat.mod_eq_of_lt (by omega)
  · exact emitDigits_length_eq hpos s.cs (.inl hzf)
  · exact emitDigits_length_eq hpos s.cs (.inr hlong)
  · subst hzf
    exact emitDigits_length_least hpos s.cs hcode

/-- DECODE of a code whose digits' symbols are `str` padded: it completes, and DST is the first p symbols of it. -/
theorem exec_decode_of_symbols {s : State} {str : List Byte} (zf : Bool) (hvalid : ValidCodec s)
    (hfits : s.codeIn.toNat < setLength s ^ maxC (setLength s))
    (hsymbols : ∀ k, byteAt s.cs (s.codeIn.toNat / setLength s ^ k % setLength s) = str.getD k (zeroSymbol s)) :
    ∃ u p, exec (.decode zf) s = .next u ∧ u.err = .ok ∧
      dstString u = (List.range p).map (str.getD · (zeroSymbol s)) ∧
      (zf = true → p = maxC (setLength s)) ∧
      (zf = false → s.codeIn.toNat < setLength s ^ p ∧ ∀ j, j < p → setLength s ^ j ≤ s.codeIn.toNat) := by
  obtain ⟨wk, out, p, len, hexec, hlen, -, -, hfilled, -, hleast, hout⟩ := decodeEmitsTheDigits zf s hvalid
  refine ⟨_, p, hexec, if_neg (Nat.not_le.2 hfits), ?_, hfilled, fun hzf => hleast hzf hfits⟩
  simp only [dstString, hlen]
  refine List.map_congr_left fun k hk => ?_
  rw [hout, if_pos (List.mem_range.1 hk), hsymbols]

/-- Settles O40: RESULT is the numeric form of the string's digits, whose symbols are the string padded with the zero
symbol; DECODE.Z takes MAXC(L) of them, DECODE those up to the last digit that is not 0. -/
theorem decodeInvertsEncode : Obligations.DecodeInvertsEncode := by
  intro n s hvalid hdistinct hn hstr
  obtain ⟨wk, r, hencode, hr⟩ := exec_encode_of_inSet hvalid hn hstr
  have hsymbols := byteAt_numericForm_digit hvalid hstr
  have hlt := numericForm_lt_pow (lt_of_mem_map_digitOf hstr)
  rw [← hr] at hsymbols hlt
  have hfits : r.toNat < setLength s ^ maxC (setLength s) :=
    hlt.trans_le (Nat.pow_le_pow_right (setLength_pos_of_valid hvalid) (by simpa using hn))
  have hdecode (zf : Bool) := exec_decode_of_symbols
    (s := { s with work := wk, result := r, err := .ok, errIdx := 0, busy := false, codeIn := r })
    zf hvalid hfits hsymbols
  refine ⟨_, hencode, rfl, ?trimmed, ?padded⟩
  case trimmed =>
    obtain ⟨u, p, hexec, herr, hdst, -, hleast⟩ := hdecode false
    obtain ⟨hhigh, hlow⟩ := hleast rfl
    exact ⟨u, hexec, herr, hdst.trans (map_getD_range_eq_trimTrailing hvalid hdistinct hsymbols hhigh hlow)⟩
  case padded =>
    obtain ⟨u, p, hexec, herr, hdst, hfilled, -⟩ := hdecode true
    obtain rfl := hfilled rfl
    have hpadded := map_getD_range_eq_append_replicate (z := zeroSymbol s) ((srcString_length n s).trans_le hn)
    rw [srcString_length] at hpadded
    exact ⟨u, hexec, herr, hdst.trans hpadded⟩

end Sys2Proof.Machine
end

/-! ## Outcomes and frames of the commits (60_exceptions.md): the layer of facts, then the statements

First what the committing step can be, then which outcome ENCODE and DECODE report, first cause first (R173). -/

section
/-! ### The committing step, command by command -/

namespace Sys2Proof.Machine

variable {s t : State}

theorem not_noCommand_of_decode {w : Word} {i : Instr} (h : decode w = .instr i) : ¬ NoCommand w := fun hno =>
  noCommand_iff_decode_ne.1 hno ⟨i, h⟩

/-- The commands that read no codec have no cause of an error. -/
theorem exec_succeeds_or_uses_codec {i : Instr} (h : exec i s = .next t) :
    (∃ n, i = .encode n) ∨ (∃ zf, i = .decode zf) ∨
    (t.err = .ok ∧ t.errIdx = 0 ∧ (∀ n, i ≠ .encode n) ∧ ∀ zf, i ≠ .decode zf) := by
  cases i with
  | nop => cases (exec_nop_eq s).symm.trans h; simp
  | config n => obtain ⟨_, _, e⟩ := exec_config_frame n s; cases e.symm.trans h; simp
  | loaddef => obtain ⟨_, _, e⟩ := exec_loaddef_frame s; cases e.symm.trans h; simp
  | maxchars => obtain ⟨_, e⟩ := exec_maxchars_frame s; cases e.symm.trans h; simp
  | encode n => exact .inl ⟨n, rfl⟩
  | decode zf => exact .inr (.inl ⟨zf, rfl⟩)

/-- Everything a committing step can be: an illegal word, ENCODE, DECODE, or a command that succeeds. -/
theorem step_of_commitsNext_cases (hnext : CommitsNext s) (h : step s = .next t) :
    (NoCommand s.pend ∧ t = { takeSample s with err := .illegalCmd, errIdx := 0, busy := false }) ∨
    (∃ n, decode s.pend = .instr (.encode n) ∧ exec (.encode n) (takeSample s) = .next t) ∨
    (∃ zf, decode s.pend = .instr (.decode zf) ∧ exec (.decode zf) (takeSample s) = .next t) ∨
    (t.err = .ok ∧ t.errIdx = 0 ∧
      ∃ i, decode s.pend = .instr i ∧ (∀ n, i ≠ .encode n) ∧ ∀ zf, i ≠ .decode zf) := by
  rw [step_of_commitsNext hnext] at h
  cases hd : decode s.pend with
  | illegal why =>
    have hno : NoCommand s.pend := noCommand_iff_illegal.2 ⟨why, hd⟩
    cases (commitPending_of_noCommand (s := takeSample s) hno).symm.trans h
    exact .inl ⟨hno, rfl⟩
  | instr i =>
    have hexec : exec i (takeSample s) = .next t := by simpa [commitPending, hd] using h
    rcases exec_succeeds_or_uses_codec hexec with ⟨n, rfl⟩ | ⟨zf, rfl⟩ | ⟨herr, hidx, hother⟩
    · exact .inr (.inl ⟨n, rfl, hexec⟩)
    · exact .inr (.inr (.inl ⟨zf, rfl, hexec⟩))
    · exact .inr (.inr (.inr ⟨herr, hidx, i, rfl, hother⟩))

end Sys2Proof.Machine
end

section
/-! ### Which outcome ENCODE and DECODE report (R173) -/

namespace Sys2Proof.Machine

variable {s t : State} {n : Nat}

theorem setLength_ne_zero_of_not_inert (h : ¬ InertCodec s) : setLength s ≠ 0 := fun hzero =>
  h (BitVec.eq_of_toNat_eq hzero)

/-- Position `i` holds the first of the `n` symbols of the string that is not in the character set. -/
def FirstMissing (s : State) (n i : Nat) : Prop :=
  i < n ∧ ¬ InSet s (byteAt s.src i) ∧ ∀ j, j < i → InSet s (byteAt s.src j)

theorem all_inSet_or_firstMissing (s : State) (n : Nat) :
    (∀ i, i < n → InSet s (byteAt s.src i)) ∨ ∃ i, FirstMissing s n i := by
  induction n with
  | zero => exact .inl fun i hi => absurd hi (Nat.not_lt_zero i)
  | succ n ih =>
    rcases ih with hall | ⟨i, hi, hmissing, hfound⟩
    · by_cases hlast : InSet s (byteAt s.src n)
      · refine .inl fun i hi => ?_
        rcases Nat.lt_succ_iff_lt_or_eq.1 hi with hlt | rfl
        · exact hall i hlt
        · exact hlast
      · exact .inr ⟨n, n.lt_succ_self, hlast, hall⟩
    · exact .inr ⟨i, hi.trans n.lt_succ_self, hmissing, hfound⟩

/-- Past the check of the codec, ENCODE checks the length and then reads the symbols, for lengths without a row too. -/
theorem exec_encode_of_not_inert (n : Nat) (h : ¬ InertCodec s) :
    exec (.encode n) s =
      if maxC (setLength s) < n then .next (commitWith .lengthExceeded 0 s)
      else commitSummed (sumDigits (setLength s) s.cs s.src n 0 0) s :=
  if_neg (setLength_ne_zero_of_not_inert h)

/-- ENCODE's outcomes in the order in which it examines their causes. -/
theorem exec_encode_outcome (h : exec (.encode n) s = .next t) :
    (InertCodec s ∧ t.err = .invalidCharset ∧ t.errIdx = 0) ∨
    (¬ InertCodec s ∧ maxC (setLength s) < n ∧ t.err = .lengthExceeded ∧ t.errIdx = 0) ∨
    (¬ InertCodec s ∧ n ≤ maxC (setLength s) ∧ t.err = .invalidSymbol ∧ FirstMissing s n t.errIdx.toNat) ∨
    (¬ InertCodec s ∧ n ≤ maxC (setLength s) ∧ t.err = .ok ∧ t.errIdx = 0 ∧
      ∀ i, i < n → InSet s (byteAt s.src i)) := by
  by_cases hcodec : InertCodec s
  · cases (encodeOfAnInertCodecFails n s hcodec).symm.trans h
    exact .inl ⟨hcodec, rfl, rfl⟩
  rw [exec_encode_of_not_inert n hcodec] at h
  refine .inr ?_
  split at h
  case isTrue hlong =>
    cases h
    exact .inl ⟨hcodec, hlong, rfl, rfl⟩
  case isFalse hshort =>
    have hn : n ≤ maxC (setLength s) := Nat.le_of_not_lt hshort
    refine .inr ?_
    rcases all_inSet_or_firstMissing s n with hall | ⟨i, hi, hmissing, hfound⟩
    · have hok := sumDigits_err_eq_ok (cs := s.cs) (src := s.src) hn
        fun j hj hnone => lookup_eq_none_iff_not_inSet.1 hnone (hall j hj)
      rw [commitSummed, hok] at h
      cases h
      exact .inr ⟨hcodec, hn, rfl, rfl, hall⟩
    · obtain ⟨acc, hloop⟩ := sumDigits_of_firstMissing hn hi (lookup_eq_none_iff_not_inSet.2 hmissing)
        fun j hj hnone => lookup_eq_none_iff_not_inSet.1 hnone (hfound j hj)
      have hnine := maxC_le_nine (setLength s)
      have hidx : (BitVec.ofNat 4 i).toNat = i := Nat.mod_eq_of_lt (by omega)
      rw [hloop] at h
      cases h
      refine .inl ⟨hcodec, hn, rfl, ?_⟩
      rw [commitWith_errIdx, hidx]
      exact ⟨hi, hmissing, hfound⟩

/-- DECODE's outcomes in the order in which it examines their causes; none has an index. -/
theorem exec_decode_outcome {zf : Bool} (h : exec (.decode zf) s = .next t) : t.errIdx = 0 ∧
    ((InertCodec s ∧ t.err = .invalidCharset) ∨
     (¬ InertCodec s ∧ setLength s ^ maxC (setLength s) ≤ s.codeIn.toNat ∧ t.err = .lengthExceeded) ∨
     (¬ InertCodec s ∧ s.codeIn.toNat < setLength s ^ maxC (setLength s) ∧ t.err = .ok)) := by
  rcases execDecode_cases zf s with ⟨hinert, hexec⟩ | ⟨hpos, r, rfl, hexec⟩
  · cases hexec.symm.trans h
    exact ⟨rfl, .inl ⟨BitVec.eq_of_toNat_eq hinert, rfl⟩⟩
  · have hrem := emitDigits_rem_eq_zero_iff (Nat.pos_of_ne_zero hpos) zf s.cs (maxC (setLength s)) s.codeIn.toNat
    have hcodec : ¬ InertCodec s := fun hinert => hpos (setLength_of_inert hinert)
    cases hexec.symm.trans h
    refine ⟨rfl, .inr ?_⟩
    rcases Nat.lt_or_ge s.codeIn.toNat (setLength s ^ maxC (setLength s)) with hfits | hlong
    · exact .inr ⟨hcodec, hfits, if_pos (hrem.2 hfits)⟩
    · exact .inl ⟨hcodec, hlong, if_neg fun hzero => (hrem.1 hzero).not_ge hlong⟩

end Sys2Proof.Machine
end

section
/-! ### The statements of 60_exceptions.md -/

namespace Sys2Proof.Machine

/-- Settles O41: the word in PEND selects the command, whose outcomes exclude each other and cover all states; taking
the sample of rst_n touches nothing that they depend on. -/
theorem eachCommitReportsTheFirstCause : Obligations.EachCommitReportsTheFirstCause := by
  intro s t hnext hstep
  rcases step_of_commitsNext_cases hnext hstep with
    ⟨hno, rfl⟩ | ⟨n, hd, hexec⟩ | ⟨zf, hd, hexec⟩ | ⟨herr, hidx, i, hd, hencode, hdecode⟩
  · obtain ⟨why, hd⟩ := noCommand_iff_illegal.1 hno
    simp [hno, hd]
  · have hlegal := not_noCommand_of_decode hd
    rcases exec_encode_outcome hexec with ⟨(hcodec : InertCodec s), herr, hidx⟩ |
      ⟨(hcodec : ¬ InertCodec s), (hlong : maxC (setLength s) < n), herr, hidx⟩ |
      ⟨(hcodec : ¬ InertCodec s), (hn : n ≤ maxC (setLength s)), herr, (hfirst : FirstMissing s n t.errIdx.toNat)⟩ |
      ⟨(hcodec : ¬ InertCodec s), (hn : n ≤ maxC (setLength s)), herr, hidx,
        (hall : ∀ i, i < n → InSet s (byteAt s.src i))⟩
    · simp [hlegal, hd, hcodec, herr, hidx]
    · simp [hlegal, hd, hcodec, herr, hidx, hlong, hlong.not_ge]
    · obtain ⟨hi, hmissing, hfound⟩ := hfirst
      simpa [hlegal, hd, hcodec, herr, hn, hn.not_gt, hmissing] using ⟨⟨_, hi, hmissing⟩, hfound⟩
    · simpa [hlegal, hd, hcodec, herr, hidx, hn, hn.not_gt] using hall
  · have hlegal := not_noCommand_of_decode hd
    obtain ⟨hidx, houtcome⟩ := exec_decode_outcome hexec
    rcases houtcome with ⟨(hcodec : InertCodec s), herr⟩ |
      ⟨(hcodec : ¬ InertCodec s), (hlong : setLength s ^ maxC (setLength s) ≤ s.codeIn.toNat), herr⟩ |
      ⟨(hcodec : ¬ InertCodec s), (hfits : s.codeIn.toNat < setLength s ^ maxC (setLength s)), herr⟩
    · simp [hlegal, hd, hcodec, herr, hidx]
    · simp [hlegal, hd, hcodec, herr, hidx, hlong]
    · simp [hlegal, hd, hcodec, herr, hidx, hfits.not_ge]
  · have hlegal := not_noCommand_of_decode hd
    simp [hlegal, hd, herr, hidx, hencode, hdecode]

/-- Settles O42, from the frames of the commits that can report an error: an illegal word's, ENCODE's and DECODE's. -/
theorem errorCommitsArePrecise : Obligations.ErrorCommitsArePrecise := by
  intro s t hnext hstep hfailed
  rcases step_of_commitsNext_cases hnext hstep with
    ⟨-, rfl⟩ | ⟨n, -, hexec⟩ | ⟨zf, hd, hexec⟩ | ⟨hok, -⟩
  · exact .inl ⟨s.work, rfl⟩
  · obtain ⟨wk, res, e, idx, hframe, -, hkept, -⟩ := exec_encode_frame n (takeSample s)
    cases hframe.symm.trans hexec
    obtain rfl : res = (takeSample s).result := hkept hfailed
    exact .inl ⟨wk, rfl⟩
  · obtain ⟨wk, out, len, e, hframe, rfl | rfl | rfl, hkept⟩ := exec_decode_frame zf (takeSample s)
    · cases hframe.symm.trans hexec
      exact absurd rfl hfailed
    · cases hframe.symm.trans hexec
      obtain ⟨rfl, rfl⟩ := hkept rfl
      exact .inl ⟨wk, rfl⟩
    · cases hframe.symm.trans hexec
      exact .inr ⟨rfl, ⟨zf, hd⟩, wk, rfl⟩
  · exact absurd hok hfailed

end Sys2Proof.Machine
end

/-! ## Reset (70_reset_and_hazards.md): the layer of facts, then the statements -/

section
/-! ### A cycle of reset, and the host in it (R190, R191) -/

namespace Sys2Proof.Machine

variable {s : State}

/-- A low rst_n wins over a commit that is due (R191). -/
theorem step_of_resetLow (h : resetIsLow s = true) : step s = .next (hostTurn true (resetBlock (takeSample s))) :=
  if_pos h

/-- The block ignores a write of the host in reset; the host goes on. -/
theorem hostTurn_inReset_wr {r : Reg} {v : HostValue} (h : nextHostOp s = some (.wr r v)) :
    hostTurn true s = goTo (s.host.place + 1) s := by
  simp [hostTurn, h, hostOp, busWrite]

/-- Every read of the host in reset returns 0. -/
theorem hostTurn_inReset_rd {k : Fin 8} {r : Reg} (h : nextHostOp s = some (.rd k r)) :
    hostTurn true s = setTemp k 0 s := by
  simp [hostTurn, h, hostOp, busRead]

end Sys2Proof.Machine
end

section
/-! ### Which steps change the length of the character set (10_state.md R30) -/

namespace Sys2Proof.Machine

variable {s t : State}

@[simp] theorem writeReg_csLen (r : Reg) (v : Word) (s : State) : (writeReg r v s).csLen = s.csLen := by
  rcases writeReg_cases r v s with e | ⟨-, -, e⟩ | ⟨-, -, e⟩ | ⟨-, -, e⟩ | ⟨-, w, -, e⟩ | ⟨-, w, -, e⟩ <;> simp [e]

@[simp] theorem hostTurn_inReset_csLen (s : State) : (hostTurn true s).csLen = s.csLen := by
  obtain ⟨host, h⟩ := hostTurn_inReset s
  rw [h]

@[simp] theorem hostTurn_outOfReset_csLen (s : State) : (hostTurn false s).csLen = s.csLen := by
  rcases hostTurn_outOfReset s with ⟨host, h⟩ | ⟨r, v, -, h⟩
  · rw [h]
  · rw [h, goTo_csLen, writeReg_csLen]

/-- Of the commands only LOADDEF and CONFIG with a legal length make an inert codec valid: CONFIG with any other length
writes the length 0, and the rest write none. -/
theorem exec_ends_inert {i : Instr} (h : exec i s = .next t) (hs : InertCodec s) (ht : ¬ InertCodec t) :
    i = .loaddef ∨ ∃ n, legalLength n = true ∧ i = .config n := by
  cases i with
  | nop => cases (exec_nop_eq s).symm.trans h; exact absurd hs ht
  | config n =>
    rcases execConfig_cases n s with ⟨hlegal, -⟩ | ⟨-, e⟩
    · exact .inr ⟨n, hlegal, rfl⟩
    · cases e.symm.trans h; exact absurd rfl ht
  | loaddef => exact .inl rfl
  | maxchars => cases (exec_maxchars_eq s).symm.trans h; exact absurd hs ht
  | encode n => cases (encodeOfAnInertCodecFails n s hs).symm.trans h; exact absurd hs ht
  | decode zf => cases (decodeOfAnInertCodecFails zf s hs).symm.trans h; exact absurd hs ht

/-- The commit of an illegal word constructs no codec either. -/
theorem commitPending_ends_inert (h : commitPending s = .next t) (hs : InertCodec s) (ht : ¬ InertCodec t) :
    decode s.pend = .instr .loaddef ∨ ∃ n, legalLength n = true ∧ decode s.pend = .instr (.config n) := by
  unfold commitPending at h
  split at h
  case h_1 i hd =>
    rcases exec_ends_inert h hs ht with rfl | ⟨n, hlegal, rfl⟩
    · exact .inl hd
    · exact .inr ⟨n, hlegal, hd⟩
  case h_2 => cases h; exact absurd hs ht

/-- Neither a cycle of reset nor a turn of the host ends inertness: only a commit does. -/
theorem step_ends_inert (h : step s = .next t) (hs : InertCodec s) (ht : ¬ InertCodec t) :
    CommitsNext s ∧ commitPending (takeSample s) = .next t := by
  rcases step_cases s with ⟨-, e⟩ | ⟨hhigh, hdue, e⟩ | ⟨-, -, e⟩
  · cases e.symm.trans h
    exact absurd (hostTurn_inReset_csLen _) ht
  · exact ⟨⟨hhigh, hdue⟩, e.symm.trans h⟩
  · cases e.symm.trans h
    exact absurd ((hostTurn_outOfReset_csLen (tick (takeSample s))).trans hs) ht

end Sys2Proof.Machine
end

section
/-! ### The statements of 70_reset_and_hazards.md -/

namespace Sys2Proof.Machine

/-- Settles O21: the length of the set is 0 at reset, where the commands fail or give 0, and only a commit that constructs
a codec changes it from 0. -/
theorem inertUntilACodecIsConstructed : Obligations.InertUntilACodecIsConstructed := by
  refine ⟨rfl, validTellsAnInertCodec.1, fun s hs => ⟨⟨_, exec_maxchars_eq s, ?maxchars⟩,
    fun n => ⟨_, encodeOfAnInertCodecFails n s hs, rfl⟩, fun zf => ⟨_, decodeOfAnInertCodecFails zf s hs, rfl⟩,
    fun t hstep ht => ?step⟩⟩
  case maxchars => exact congrArg (BitVec.ofNat 32) (maxC_setLength_of_inert hs)
  case step =>
    obtain ⟨hnext, hcommit⟩ := step_ends_inert hstep hs ht
    refine ⟨hnext, ?_⟩
    rcases commitPending_ends_inert hcommit hs ht with hd | ⟨n, hlegal, hd⟩
    · exact .inl hd
    · obtain ⟨hlo, hhi⟩ := (legalLength_iff n).1 hlegal
      exact .inr ⟨n, hlo, hhi, hd⟩

/-- Settles O19: the step is `resetBlock`, after which the host's turn changes the host alone. -/
theorem resetCycleClearsTheBlock : Obligations.ResetCycleClearsTheBlock := by
  intro s hlow
  obtain ⟨host, hturn⟩ := hostTurn_inReset (resetBlock (takeSample s))
  refine ⟨_, _, host, (step_of_resetLow hlow).trans (congrArg _ hturn), fun r v hop => ?write, fun k r hop => ?read⟩
  case write => exact congrArg State.host (hturn.symm.trans (hostTurn_inReset_wr hop))
  case read => exact congrArg State.host (hturn.symm.trans (hostTurn_inReset_rd hop))

end Sys2Proof.Machine
end

/-! ## The encoder and the host's strings (30_encoding.md R85, R90, R92): the layer of facts, then the statements -/

section
/-! ### The encoder writes the fields that the decoder reads -/

namespace Sys2Proof

/-- The layout of R80 has no bit outside the five fields. -/
theorem word_ext_fields {w v : Word} (hhigh : highReserved w = highReserved v) (hn : nField w = nField v)
    (hlow : lowReserved w = lowReserved v) (hzf : zfField w = zfField v) (hop : opField w = opField v) : w = v := by
  rw [word_eq_fields w, word_eq_fields v, hhigh, hn, hlow, hzf, hop]

/-- What stands in each field of a command's word, for all commands at once. -/
theorem fields_of_encode (i : Instr) : Laws.Fields.Statement i := by
  cases i with
  | nop => exact Laws.Fields.nop
  | config n => exact Laws.Fields.config n
  | loaddef => exact Laws.Fields.loaddef
  | maxchars => exact Laws.Fields.maxchars
  | encode n => exact Laws.Fields.encode n
  | decode zf => exact Laws.Fields.decode zf

theorem decode_encode {i : Instr} (h : i.wellFormed = true) : decode (encode i) = .instr i := by
  obtain ⟨hop, hzf, hlow, hn, hhigh⟩ := fields_of_encode i h
  refine decode_eq_instr_iff.2 ⟨hhigh, hlow, ?_⟩
  cases i with
  | nop | loaddef | maxchars => exact ⟨hop, hzf, BitVec.eq_of_toNat_eq hn⟩
  | config n | encode n => exact ⟨hop, hzf, hn.symm⟩
  | decode zf => exact ⟨hop, BitVec.eq_of_toNat_eq hn, hzf.symm⟩

/-- A length read from the 7 bits of N fits them. -/
theorem CommandFields.wellFormed {w : Word} {i : Instr} (h : CommandFields w i) : i.wellFormed = true := by
  cases i with
  | nop | loaddef | maxchars | decode zf => rfl
  | config n | encode n =>
    obtain ⟨-, -, rfl⟩ := h
    exact decide_eq_true (nField w).isLt

/-- A command fixes OP, ZF and N of its word. -/
theorem CommandFields.unique {w v : Word} {i : Instr} (hw : CommandFields w i) (hv : CommandFields v i) :
    opField w = opField v ∧ zfField w = zfField v ∧ nField w = nField v := by
  cases i with
  | nop | loaddef | maxchars =>
    obtain ⟨hop, hzf, hn⟩ := hw
    obtain ⟨hop', hzf', hn'⟩ := hv
    exact ⟨hop.trans hop'.symm, hzf.trans hzf'.symm, hn.trans hn'.symm⟩
  | config n | encode n =>
    obtain ⟨hop, hzf, hn⟩ := hw
    obtain ⟨hop', hzf', hn'⟩ := hv
    exact ⟨hop.trans hop'.symm, hzf.trans hzf'.symm, BitVec.eq_of_toNat_eq (hn.symm.trans hn')⟩
  | decode zf =>
    obtain ⟨hop, hn, hzf⟩ := hw
    obtain ⟨hop', hn', hzf'⟩ := hv
    exact ⟨hop.trans hop'.symm, hzf.symm.trans hzf', hn.trans hn'.symm⟩

/-- No two words decode to one command. -/
theorem decode_injective_of_instr {w v : Word} {i : Instr} (hw : decode w = .instr i) (hv : decode v = .instr i) :
    w = v := by
  obtain ⟨hhigh, hlow, hfields⟩ := decode_eq_instr_iff.1 hw
  obtain ⟨hhigh', hlow', hfields'⟩ := decode_eq_instr_iff.1 hv
  obtain ⟨hop, hzf, hn⟩ := hfields.unique hfields'
  exact word_ext_fields (hhigh.trans hhigh'.symm) hn (hlow.trans hlow'.symm) hzf hop

end Sys2Proof
end

section
/-! ### The words of a byte string (30_encoding.md R92) -/

namespace Sys2Proof.Machine

@[simp] theorem stringWords_length (str : List Byte) : (stringWords str).length = (str.length + 3) / 4 := by
  simp [stringWords]

theorem stringWords_getElem? {str : List Byte} {w : Nat} (h : 4 * w < str.length) :
    (stringWords str)[w]? = some (word4 (str.getD (4 * w) 0) (str.getD (4 * w + 1) 0) (str.getD (4 * w + 2) 0)
      (str.getD (4 * w + 3) 0)) := by
  have hw : w < (str.length + 3) / 4 := by omega
  simp [stringWords, hw]

/-- Words that all have a register become one write each, in order. -/
theorem wordWrites_eq_some {reg : Nat → Option Reg} {p : Nat} {vs : List Word}
    (h : ∀ k, k < vs.length → (reg (p + k)).isSome) : ∃ ops, wordWrites reg p vs = some ops ∧
      ops.length = vs.length ∧
      ∀ k r v, reg (p + k) = some r → vs[k]? = some v → ops[k]? = some (.wr r (.imm v)) := by
  induction vs generalizing p with
  | nil => exact ⟨[], rfl, rfl, by simp⟩
  | cons v vs ih =>
    obtain ⟨r, hr⟩ := Option.isSome_iff_exists.1 (h 0 (by simp))
    obtain ⟨ops, hops, hlen, hget⟩ := ih (p := p + 1) fun k hk => by
      have hk := h (k + 1) (by simpa using hk)
      rwa [Nat.add_right_comm, Nat.add_assoc]
    refine ⟨.wr r (.imm v) :: ops, by simp_all [wordWrites], by simp [hlen], fun k r' v' hr' hv' => ?_⟩
    cases k with
    | zero => simp_all
    | succ k => exact hget k r' v' (by rwa [Nat.add_right_comm, Nat.add_assoc]) (by simpa using hv')

/-- `WRSTR` of a string that fits into the `bound` words of its buffer. -/
theorem wordWrites_stringWords {reg : Nat → Option Reg} {bound : Nat} {str : List Byte}
    (hreg : ∀ k, k < bound → (reg k).isSome) (hstr : str.length ≤ 4 * bound) : ∃ ops,
      wordWrites reg 0 (stringWords str) = some ops ∧ ops.length = (str.length + 3) / 4 ∧
      ∀ w r, reg w = some r → 4 * w < str.length → ops[w]? = some (.wr r (.imm
        (word4 (str.getD (4 * w) 0) (str.getD (4 * w + 1) 0) (str.getD (4 * w + 2) 0) (str.getD (4 * w + 3) 0)))) := by
  obtain ⟨ops, hops, hlen, hget⟩ := wordWrites_eq_some (reg := reg) (p := 0) (vs := stringWords str) fun k hk => by
    rw [stringWords_length] at hk
    exact hreg _ (by omega)
  rw [stringWords_length] at hlen
  exact ⟨ops, hops, hlen, fun w r hr hw => hget w r _ (by simpa using hr) (stringWords_getElem? hw)⟩

theorem srcReg_val (w : Fin 4) : srcReg w.val = some (.src w) := dif_pos w.isLt

theorem stageReg_val (w : Fin 16) : stageReg w.val = some (.stage w) := dif_pos w.isLt

end Sys2Proof.Machine
end

section
/-! ### The statements of 30_encoding.md -/

namespace Sys2Proof.Machine

/-- Settles O1: the fields of the encoded word are the command's. -/
theorem decodeReadsWhatEncodeWrites : Obligations.DecodeReadsWhatEncodeWrites := fun _ => decode_encode

/-- Settles O2: the word and the word that its command assembles to decode to the same command. -/
theorem legalWordHasOneSpelling : Obligations.LegalWordHasOneSpelling := by
  intro w i h
  obtain ⟨-, -, hfields⟩ := decode_eq_instr_iff.1 h
  have hwellFormed := hfields.wellFormed
  exact ⟨hwellFormed, decode_injective_of_instr (decode_encode hwellFormed) h⟩

/-- Settles O4: each word is the one its command assembles to. -/
theorem commandWordsOfTheSpecDecode : Obligations.CommandWordsOfTheSpecDecode :=
  ⟨decode_encode (i := .nop) rfl, decode_encode (i := .loaddef) rfl, decode_encode (i := .maxchars) rfl,
    decode_encode (i := .decode false) rfl, decode_encode (i := .decode true) rfl,
    decode_encode (i := .config 16) rfl, decode_encode (i := .config 40) rfl, decode_encode (i := .config 7) rfl,
    decode_encode (i := .encode 2) rfl, decode_encode (i := .encode 3) rfl, decode_encode (i := .encode 7) rfl⟩

/-- Settles O17: a string that fits has a register for each of its words. -/
theorem pseudoInstructionsExpandAsListed : Obligations.PseudoInstructionsExpandAsListed := by
  refine fun whole p => ⟨rfl, fun _ => rfl, fun str hstr => ?src, fun str hstr => ?stage⟩
  case src =>
    obtain ⟨ops, hops, hlen, hget⟩ := wordWrites_stringWords (reg := srcReg) (bound := 4)
      (fun k hk => by simp [srcReg_val ⟨k, hk⟩]) (by omega)
    exact ⟨ops, hops, hlen, fun w => hget _ _ (srcReg_val w)⟩
  case stage =>
    obtain ⟨ops, hops, hlen, hget⟩ := wordWrites_stringWords (reg := stageReg) (bound := 16)
      (fun k hk => by simp [stageReg_val ⟨k, hk⟩]) (by omega)
    exact ⟨ops, hops, hlen, fun w => hget _ _ (stageReg_val w)⟩

end Sys2Proof.Machine
end

/-! ## The window and its operand registers (20_memory.md R50, R70, R74; 10_state.md R75): facts, then the statements -/

section
/-! ### Host addresses -/

namespace Sys2Proof.Machine

theorem regOffset_le (r : Reg) : regOffset r ≤ 0x7F := by
  have hindex := (regIndex r).isLt
  unfold regOffset
  omega

/-- A host address selects a word exactly when it is that word's address in the window (R74). -/
theorem windowSelect_eq_some_iff {address : Nat} {a : BitVec 5} :
    windowSelect address = some a ↔ address = windowBase + 4 * a.toNat := by
  have ha := a.isLt
  have hbase : windowBase % 4 = 0 := by unfold windowBase; omega
  unfold windowSelect
  split
  case isTrue hin =>
    obtain ⟨hlo, hhi, hword⟩ := hin
    rw [Option.some_inj, ← BitVec.toNat_inj, BitVec.toNat_ofNat, Nat.mod_eq_of_lt (by omega)]
    omega
  case isFalse hout =>
    simp only [reduceCtorEq, false_iff]
    omega

end Sys2Proof.Machine
end

section
/-! ### Words of a buffer after a write -/

namespace Sys2Proof.Machine

/-- A register word is put together of the four bytes in its lanes. -/
theorem bufferWord_of_bytes {n w : Nat} {buf : Vector Byte n} {b : Fin 4 → Byte}
    (h : ∀ j : Fin 4, byteAt buf (4 * w + j) = b j) : bufferWord buf w = word4 (b 0) (b 1) (b 2) (b 3) :=
  congr (congr (congr (congrArg word4 (h 0)) (h 1)) (h 2)) (h 3)

/-- The word of a buffer that has been written is the value written. -/
theorem bufferWord_setBufferWord_same {n w : Nat} (buf : Vector Byte n) (v : Word) (hw : 4 * w + 4 ≤ n) :
    bufferWord (setBufferWord buf w v) w = v :=
  (bufferWord_of_bytes fun j => byteAt_setBufferWord_lane buf v j hw).trans (word4_lanes v)

theorem bufferWord_setBufferWord_of_ne {n w w' : Nat} (buf : Vector Byte n) (v : Word) (hw : 4 * w + 4 ≤ n)
    (h : w' ≠ w) : bufferWord (setBufferWord buf w v) w' = bufferWord buf w' := by
  refine bufferWord_of_bytes (b := fun j => byteAt buf (4 * w' + j)) fun j => ?_
  rw [byteAt_setBufferWord_of_fits buf v hw, if_neg (by omega)]

/-- An operand register holds what an idle write puts into it. -/
theorem readReg_putReg_same {r : Reg} (v : Word) (s : State) (hr : r.writable = true) (hcmd : r ≠ .cmd) :
    readReg r (putReg r v s) = v := by
  cases r with
  | cmd => exact absurd rfl hcmd
  | codeIn => rfl
  | src w => exact bufferWord_setBufferWord_same s.src v (by omega)
  | stage w => exact bufferWord_setBufferWord_same s.stage v (by omega)
  | status | result | csLen | dstLen | reserved _ | dst _ => cases hr

/-- No other register tells of a write to an operand register. -/
theorem readReg_putReg_of_ne {r r' : Reg} (v : Word) (s : State) (hcmd : r ≠ .cmd) (h : r' ≠ r) :
    readReg r' (putReg r v s) = readReg r' s := by
  cases r with
  | cmd => exact absurd rfl hcmd
  | codeIn =>
    cases r' with
    | codeIn => exact absurd rfl h
    | _ => rfl
  | src w =>
    cases r' with
    | src w' => exact bufferWord_setBufferWord_of_ne s.src v (by omega) fun hw => h (congrArg Reg.src (Fin.ext hw))
    | _ => rfl
  | stage w =>
    cases r' with
    | stage w' =>
      exact bufferWord_setBufferWord_of_ne s.stage v (by omega) fun hw => h (congrArg Reg.stage (Fin.ext hw))
    | _ => rfl
  | status | result | csLen | dstLen | reserved _ | dst _ => rfl

theorem bufferWord_zeroBytes (n w : Nat) : bufferWord (zeroBytes n) w = 0 := by
  simp only [bufferWord, byteAt_zeroBytes]
  rfl

theorem readReg_reset (r : Reg) : readReg r State.reset = 0 := by
  cases r with
  | src w | dst w | stage w => exact bufferWord_zeroBytes ..
  | _ => rfl

end Sys2Proof.Machine
end

section
/-! ### The statements of 10_state.md and 20_memory.md on the window -/

namespace Sys2Proof.Machine

/-- Settles O7: the offsets are the multiples of 4 below 128, one for each word. -/
theorem windowIsTheAlignedBlockAtBase : Obligations.WindowIsTheAlignedBlockAtBase := by
  refine ⟨Nat.dvd_mul_right 128 _, fun r => ⟨Nat.le_add_right _ _, Nat.add_le_add_left (regOffset_le r) _,
    windowSelect_eq_some_iff.2 rfl⟩, fun address a h => ?_⟩
  rw [windowAddress, regOffset, regIndex_regAt]
  exact windowSelect_eq_some_iff.1 h

/-- Settles O14, by what an idle write puts into an operand register. -/
theorem writtenOperandsReadBack : Obligations.WrittenOperandsReadBack := by
  intro s r v hidle hr hcmd
  simp only [memRead_regIndex, memWrite_regIndex, writeReg_idle r v hidle]
  exact ⟨readReg_putReg_same v s hr hcmd, fun r' => readReg_putReg_of_ne v s hcmd⟩

/-- Settles O20, register by register of the reset state. -/
theorem resetStateReadsZeroEverywhere : Obligations.ResetStateReadsZeroEverywhere :=
  ⟨fun a => readReg_reset (regAt a), rfl, byteAt_zeroBytes 64, rfl, rfl⟩

end Sys2Proof.Machine
end

/-! ## NOP, CONFIG and LOADDEF (41_codec_config.md), and the default set (20_memory.md R65) -/

section
/-! ### The codecs that CONFIG and LOADDEF construct -/

namespace Sys2Proof.Machine

variable {n : Nat}

theorem exec_config_of_legal (s : State) (h : legalLength n = true) :
    exec (.config n) s = .next { s with cs := characterSet n (byteAt s.stage), csLen := BitVec.ofNat 7 n,
                                        err := .ok, errIdx := 0, busy := false } := by
  rcases execConfig_cases n s with ⟨-, hexec⟩ | ⟨hnot, -⟩
  · exact hexec
  · rw [h] at hnot; cases hnot

theorem exec_config_of_not_legal (s : State) (h : legalLength n = false) :
    exec (.config n) s = .next { s with cs := zeroBytes 64, csLen := 0, err := .ok, errIdx := 0, busy := false } := by
  rcases execConfig_cases n s with ⟨hlegal, -⟩ | ⟨-, hexec⟩
  · rw [h] at hlegal; cases hlegal
  · exact hexec

theorem exec_loaddef_eq (s : State) :
    exec .loaddef s = .next { s with cs := characterSet 40 defaultSymbol, csLen := 40, err := .ok, errIdx := 0,
                                     busy := false } := rfl

/-- A legal length fits the 7 bits of CSLEN. -/
theorem toNat_csLen_of_legal (h : legalLength n = true) : (BitVec.ofNat 7 n).toNat = n := by
  obtain ⟨-, hhi⟩ := (legalLength_iff n).1 h
  exact Nat.mod_eq_of_lt (by omega)

theorem byteAt_characterSet_of_lt (L : Nat) (sym : Nat → Byte) {k : Nat} (hk : k < 64) :
    byteAt (characterSet L sym) k = if k < L then sym k else 0x00 := by
  simp [byteAt_characterSet, hk]

/-- A character set depends on its first L symbols alone. -/
theorem characterSet_congr {L : Nat} {sym sym' : Nat → Byte} (h : ∀ k, k < L → sym k = sym' k) :
    characterSet L sym = characterSet L sym' := by
  refine buffer_ext fun k hk => ?_
  rw [byteAt_characterSet_of_lt L sym hk, byteAt_characterSet_of_lt L sym' hk]
  split
  case isTrue hlt => exact h k hlt
  case isFalse => rfl

end Sys2Proof.Machine
end

section
/-! ### The statements of 41_codec_config.md on NOP, CONFIG and LOADDEF -/

namespace Sys2Proof.Machine

/-- Settles O27: the lengths 10 to 64 are the legal ones. -/
theorem configBuildsTheStagedSet : Obligations.ConfigBuildsTheStagedSet := by
  intro n s
  cases h : legalLength n with
  | true =>
    obtain ⟨hlo, hhi⟩ := (legalLength_iff n).1 h
    exact ⟨_, _, exec_config_of_legal s h,
      fun _ _ => ⟨toNat_csLen_of_legal h, fun k => byteAt_characterSet_of_lt n _⟩, fun hout => by omega⟩
  | false =>
    refine ⟨_, _, exec_config_of_not_legal s h, fun hlo hhi => ?_, fun _ => ⟨rfl, fun k _ => byteAt_zeroBytes 64 k⟩⟩
    rw [(legalLength_iff n).2 ⟨hlo, hhi⟩] at h
    cases h

/-- Settles O28: CONFIG 40 takes the first 40 staged bytes, which are the default symbols. -/
theorem loaddefLoadsTheDefaultSet : Obligations.LoaddefLoadsTheDefaultSet := by
  refine fun s => ⟨_, exec_loaddef_eq s, fun k => byteAt_characterSet_of_lt 40 _, fun staged hstaged => ?_⟩
  rw [← characterSet_congr hstaged]
  exact exec_config_of_legal { s with stage := staged } rfl

/-- Settles O25, by reading the ROM's ten words. -/
theorem defaultSetIsTheListedSymbols : Obligations.DefaultSetIsTheListedSymbols := by
  unfold Obligations.DefaultSetIsTheListedSymbols
  exact ⟨rfl, rfl, by decide, by decide, rfl, rfl, rfl⟩

/-- Settles O26, from the meaning of NOP. -/
theorem nopWritesOnlyTheOutcome : Obligations.NopWritesOnlyTheOutcome := exec_nop_eq

end Sys2Proof.Machine
end

/-! ## ENCODE (42_encode.md R27, R130, R135): facts, then the statements -/

section
/-! ### What ENCODE reads of SRC (10_state.md R27) -/

namespace Sys2Proof.Machine

/-- ENCODE's loop reads SRC at its own positions only. -/
theorem sumDigits_congr_src (L : Nat) (cs : Vector Byte 64) {src other : Vector Byte 16} {k i : Nat} (acc : Word)
    (h : ∀ j, j < i + k → byteAt other j = byteAt src j) :
    sumDigits L cs other k i acc = sumDigits L cs src k i acc := by
  induction k generalizing i acc with
  | zero => rfl
  | succ k ih =>
    have hrest (acc' : Word) := ih (i := i + 1) acc' fun j hj => h j (by omega)
    simp only [sumDigits, h i (by omega), hrest]

/-- The commit of what ENCODE's loop leaves neither reads nor writes SRC. -/
theorem commitSummed_src {r : Summed} {s t : State} (other : Vector Byte 16) (h : commitSummed r s = .next t) :
    commitSummed r { s with src := other } = .next { t with src := other } := by
  unfold commitSummed at h ⊢
  split at h <;> cases h <;> rfl

theorem exec_encode_src {n : Nat} {s t : State} {other : Vector Byte 16}
    (hsame : ∀ k, k < n → byteAt other k = byteAt s.src k) (h : exec (.encode n) s = .next t) :
    exec (.encode n) { s with src := other } = .next { t with src := other } := by
  by_cases hcodec : InertCodec s
  · cases (encodeOfAnInertCodecFails n s hcodec).symm.trans h
    exact encodeOfAnInertCodecFails n { s with src := other } hcodec
  · rw [exec_encode_of_not_inert n hcodec] at h
    rw [exec_encode_of_not_inert (s := { s with src := other }) n hcodec]
    change (if maxC (setLength s) < n then _ else commitSummed (sumDigits (setLength s) s.cs other n 0 0) _) = _
    rw [sumDigits_congr_src (setLength s) s.cs 0 (by simpa using hsame)]
    split at h
    case isTrue hlong => cases h; exact if_pos hlong
    case isFalse hshort => exact (if_neg hshort).trans (commitSummed_src other h)

end Sys2Proof.Machine
end

section
/-! ### The statements of 42_encode.md on the sum, its overflow and SRC -/

namespace Sys2Proof.Machine

/-- Settles O34, by the sum of a sequence of digits. -/
theorem encodeSumsTheDigits : Obligations.EncodeSumsTheDigits := by
  intro n s ds hvalid hn hlen hds
  subst hlen
  exact exec_encode_of_digits hvalid hn hds

/-- Settles O35: OVERFLOW is not among the outcomes of ENCODE's frame. -/
theorem encodeNeverOverflows : Obligations.EncodeNeverOverflows := by
  intro n s t h
  obtain ⟨_, _, e, _, hframe, he, -, -⟩ := exec_encode_frame n s
  cases hframe.symm.trans h
  rcases he with rfl | rfl | rfl | rfl <;> simp

/-- Settles O36: the loop reads the first n bytes of SRC, and no commit writes SRC. -/
theorem encodeReadsOnlyItsSymbols : Obligations.EncodeReadsOnlyItsSymbols := by
  intro n s t other hsame h
  obtain ⟨_, _, _, _, hframe, -⟩ := exec_encode_frame n s
  refine ⟨?_, exec_encode_src hsame h⟩
  cases hframe.symm.trans h
  rfl

end Sys2Proof.Machine
end

/-! ## What every step keeps (10_state.md): the layer of facts, then the statements -/

section
/-! ### The invariant, in three parts that each command writes as a whole or not at all -/

namespace Sys2Proof.Machine

/-- A length and a set of the codec as R30 allows them. -/
def CodecLegal (set : Vector Byte 64) (len : BitVec 7) : Prop :=
  (len = 0 ∨ legalLength len.toNat = true) ∧ ∀ k, len.toNat ≤ k → byteAt set k = 0x00

/-- An output and its length as R28 and R33 allow them. -/
def OutputPadded (out : Vector Byte 16) (len : BitVec 4) : Prop :=
  len.toNat ≤ 9 ∧ ∀ k, len.toNat ≤ k → byteAt out k = 0x00

/-- An outcome and its index as R25 and R135 allow them. -/
def OutcomeLegal (e : Err) (idx : BitVec 4) : Prop :=
  (e ≠ .invalidSymbol → idx = 0) ∧ idx.toNat ≤ 8 ∧ e ≠ .overflow

theorem inv_iff {s : State} :
    s.Inv ↔ CodecLegal s.cs s.csLen ∧ OutputPadded s.dst s.dstLen ∧ OutcomeLegal s.err s.errIdx := by
  constructor
  · intro h
    exact ⟨⟨h.length_legal, h.set_padded⟩, ⟨h.output_short, h.output_padded⟩,
      ⟨h.index_only_of_symbol, h.index_short, h.never_overflow⟩⟩
  · rintro ⟨⟨hlength, hset⟩, ⟨hshort, hpadded⟩, ⟨honly, hidx, hnever⟩⟩
    exact ⟨hlength, hset, hshort, hpadded, honly, hidx, hnever⟩

theorem codecLegal_zeroBytes : CodecLegal (zeroBytes 64) 0 := ⟨.inl rfl, fun k _ => byteAt_zeroBytes 64 k⟩

theorem codecLegal_characterSet {n : Nat} (h : legalLength n = true) (sym : Nat → Byte) :
    CodecLegal (characterSet n sym) (BitVec.ofNat 7 n) := by
  rw [CodecLegal, toNat_csLen_of_legal h]
  exact ⟨.inr h, fun k hk => by rw [byteAt_characterSet, if_neg (by omega)]⟩

theorem outputPadded_zeroBytes : OutputPadded (zeroBytes 16) 0 := ⟨by decide, fun k _ => byteAt_zeroBytes 16 k⟩

theorem outcomeLegal_zero {e : Err} (h : e ≠ .overflow) : OutcomeLegal e 0 := ⟨fun _ => rfl, by decide, h⟩

/-- The invariant speaks of no register but these. -/
theorem State.Inv.of_same {s t : State} (h : s.Inv) (hcs : t.cs = s.cs) (hcsLen : t.csLen = s.csLen)
    (hdst : t.dst = s.dst) (hdstLen : t.dstLen = s.dstLen) (herr : t.err = s.err) (hidx : t.errIdx = s.errIdx) :
    t.Inv := by
  rw [inv_iff, hcs, hcsLen, hdst, hdstLen, herr, hidx]
  exact inv_iff.1 h

theorem resetBlock_inv (s : State) : (resetBlock s).Inv :=
  inv_iff.2 ⟨codecLegal_zeroBytes, outputPadded_zeroBytes, outcomeLegal_zero (by simp)⟩

end Sys2Proof.Machine
end

section
/-! ### Every commit keeps the invariant -/

namespace Sys2Proof.Machine

variable {s t : State}

/-- The index of a missing symbol is below MAXC, so at most 8 (10_state.md R25). -/
theorem exec_encode_outcomeLegal {n : Nat} (h : exec (.encode n) s = .next t) : OutcomeLegal t.err t.errIdx := by
  have hnine := maxC_le_nine (setLength s)
  rcases exec_encode_outcome h with ⟨-, herr, hidx⟩ | ⟨-, -, herr, hidx⟩ | ⟨-, hn, herr, hi, -⟩ | ⟨-, -, herr, hidx, -⟩
  · rw [herr, hidx]; exact outcomeLegal_zero (by decide)
  · rw [herr, hidx]; exact outcomeLegal_zero (by decide)
  · rw [herr]; exact ⟨fun hne => absurd rfl hne, by omega, by decide⟩
  · rw [herr, hidx]; exact outcomeLegal_zero (by decide)

/-- DECODE writes no output on an inert codec, and at most MAXC symbols on a valid one; the invariant leaves no other. -/
theorem exec_decode_inv {zf : Bool} (hs : s.Inv) (h : exec (.decode zf) s = .next t) : t.Inv := by
  obtain ⟨hcodec, hout, -⟩ := inv_iff.1 hs
  rcases hs.length_legal with hinert | hvalid
  · cases (decodeOfAnInertCodecFails zf s hinert).symm.trans h
    exact inv_iff.2 ⟨hcodec, hout, outcomeLegal_zero (by simp)⟩
  · obtain ⟨wk, out, p, len, hexec, hlen, -, hnine, -, -, -, hbytes⟩ := decodeEmitsTheDigits zf s hvalid
    cases hexec.symm.trans h
    refine inv_iff.2 ⟨hcodec, ⟨hlen.trans_le hnine, fun k hk => ?padded⟩, outcomeLegal_zero ?never⟩
    case padded => rw [hbytes, if_neg (hlen.ge.trans hk).not_gt]
    case never => dsimp only; split <;> decide

theorem exec_inv {i : Instr} (hs : s.Inv) (h : exec i s = .next t) : t.Inv := by
  obtain ⟨hcodec, hout, -⟩ := inv_iff.1 hs
  have hok : OutcomeLegal .ok 0 := outcomeLegal_zero (by decide)
  cases i with
  | nop => cases (exec_nop_eq s).symm.trans h; exact inv_iff.2 ⟨hcodec, hout, hok⟩
  | config n =>
    cases hn : legalLength n with
    | true =>
      cases (exec_config_of_legal s hn).symm.trans h
      exact inv_iff.2 ⟨codecLegal_characterSet hn _, hout, hok⟩
    | false =>
      cases (exec_config_of_not_legal s hn).symm.trans h
      exact inv_iff.2 ⟨codecLegal_zeroBytes, hout, hok⟩
  | loaddef =>
    cases (exec_loaddef_eq s).symm.trans h
    exact inv_iff.2 ⟨codecLegal_characterSet rfl _, hout, hok⟩
  | maxchars => cases (exec_maxchars_eq s).symm.trans h; exact inv_iff.2 ⟨hcodec, hout, hok⟩
  | encode n =>
    have houtcome := exec_encode_outcomeLegal h
    obtain ⟨_, _, _, _, e, -⟩ := exec_encode_frame n s
    cases e.symm.trans h
    exact inv_iff.2 ⟨hcodec, hout, houtcome⟩
  | decode zf => exact exec_decode_inv hs h

theorem commitPending_inv (hs : s.Inv) (h : commitPending s = .next t) : t.Inv := by
  unfold commitPending at h
  split at h
  case h_1 => exact exec_inv hs h
  case h_2 =>
    obtain ⟨hcodec, hout, -⟩ := inv_iff.1 hs
    cases h
    exact inv_iff.2 ⟨hcodec, hout, outcomeLegal_zero (by simp)⟩

end Sys2Proof.Machine
end

section
/-! ### What the host's turn writes, and what it leaves (10_state.md R42) -/

namespace Sys2Proof.Machine

/-- `t` differs from `s` in the registers that the host's turn may write, and nowhere else (10_state.md R42). -/
def OnlyHostWrites (s t : State) : Prop :=
  t = { s with busy := t.busy, wib := t.wib, codeIn := t.codeIn, src := t.src, stage := t.stage, pend := t.pend,
               wait := t.wait, draws := t.draws, host := t.host }

theorem OnlyHostWrites.keeps {s t : State} (h : OnlyHostWrites s t) :
    t.err = s.err ∧ t.errIdx = s.errIdx ∧ t.result = s.result ∧ t.dst = s.dst ∧ t.dstLen = s.dstLen ∧
      t.cs = s.cs ∧ t.csLen = s.csLen ∧ t.work = s.work := by
  rw [OnlyHostWrites] at h
  rw [h]
  exact ⟨rfl, rfl, rfl, rfl, rfl, rfl, rfl, rfl⟩

theorem OnlyCommitWrites.keeps {s t : State} (h : OnlyCommitWrites s t) :
    t.codeIn = s.codeIn ∧ t.src = s.src ∧ t.stage = s.stage ∧ t.pend = s.pend ∧ t.wib = s.wib ∧ t.host = s.host := by
  rw [OnlyCommitWrites] at h
  rw [h]
  exact ⟨rfl, rfl, rfl, rfl, rfl, rfl⟩

theorem OnlyCommitWrites.busy {s t : State} (h : OnlyCommitWrites s t) : t.busy = false := by
  rw [OnlyCommitWrites] at h
  rw [h]

theorem OnlyCommitWrites.rstN {s t : State} (h : OnlyCommitWrites s t) : t.rstN = s.rstN := by
  rw [OnlyCommitWrites] at h
  rw [h]

theorem writeReg_onlyHostWrites (r : Reg) (v : Word) (s : State) : OnlyHostWrites s (writeReg r v s) := by
  rcases writeReg_cases r v s with e | ⟨-, -, e⟩ | ⟨-, -, e⟩ | ⟨-, -, e⟩ | ⟨-, w, -, e⟩ | ⟨-, w, -, e⟩
  all_goals rw [e]; rfl

theorem hostTurn_onlyHostWrites (s : State) : OnlyHostWrites s (hostTurn false s) := by
  rcases hostTurn_outOfReset s with ⟨host, h⟩ | ⟨r, v, -, h⟩
  · rw [h]; rfl
  · rw [h]
    exact congrArg (goTo (s.host.place + 1)) (writeReg_onlyHostWrites r (hostValue v s.host) s)

/-- While BUSY a turn of the host can only drop a write. -/
theorem hostTurn_of_busy {s : State} (h : s.busy = true) :
    ∃ wib host, hostTurn false s = { s with wib := wib, host := host } := by
  rcases hostTurn_outOfReset s with ⟨host, e⟩ | ⟨r, v, -, e⟩
  · exact ⟨_, _, e⟩
  · rw [e, writeReg_busy r _ h]
    split
    · exact ⟨_, _, rfl⟩
    · exact ⟨_, _, rfl⟩

/-- Out of reset a step is a commit or the host's turn. -/
theorem step_outOfReset_cases {s t : State} (hhigh : resetIsLow s = false) (h : step s = .next t) :
    (CommitsNext s ∧ commitPending (takeSample s) = .next t) ∨
    (HostsTurn s ∧ t = hostTurn false (tick (takeSample s))) := by
  rcases step_cases s with ⟨hlow, -⟩ | ⟨-, hdue, e⟩ | ⟨-, hdue, e⟩
  · rw [hhigh] at hlow; cases hlow
  · exact .inl ⟨⟨hhigh, hdue⟩, e.symm.trans h⟩
  · cases e.symm.trans h
    exact .inr ⟨⟨hhigh, hdue⟩, rfl⟩

/-- What a host write must be where it changes a register (20_memory.md R72). -/
theorem writeReg_changes (r : Reg) (v : Word) (s : State) :
    ((writeReg r v s).busy ≠ s.busy → r = .cmd) ∧
    ((writeReg r v s).wib ≠ s.wib → r.writable = true) ∧
    ((writeReg r v s).codeIn ≠ s.codeIn → s.busy = false ∧ r = .codeIn) ∧
    ((writeReg r v s).src ≠ s.src → s.busy = false ∧ ∃ w, r = .src w) ∧
    ((writeReg r v s).stage ≠ s.stage → s.busy = false ∧ ∃ w, r = .stage w) ∧
    ((writeReg r v s).pend ≠ s.pend → s.busy = false ∧ r = .cmd) := by
  rcases writeReg_cases r v s with e | ⟨-, hr, e⟩ | ⟨hidle, rfl, e⟩ | ⟨hidle, rfl, e⟩ | ⟨hidle, w, rfl, e⟩ |
    ⟨hidle, w, rfl, e⟩
  · simp [e]
  · simp [e, hr]
  all_goals simp [e, hidle, Reg.writable]

/-- What the host's operation must be where its turn changes a register. -/
theorem hostTurn_changes (s : State) :
    ((hostTurn false s).busy ≠ s.busy → ∃ v, nextHostOp s = some (.wr .cmd v)) ∧
    ((hostTurn false s).wib ≠ s.wib → ∃ r v, nextHostOp s = some (.wr r v) ∧ r.writable = true) ∧
    ((hostTurn false s).codeIn ≠ s.codeIn → s.busy = false ∧ ∃ v, nextHostOp s = some (.wr .codeIn v)) ∧
    ((hostTurn false s).src ≠ s.src → s.busy = false ∧ ∃ w v, nextHostOp s = some (.wr (.src w) v)) ∧
    ((hostTurn false s).stage ≠ s.stage → s.busy = false ∧ ∃ w v, nextHostOp s = some (.wr (.stage w) v)) ∧
    ((hostTurn false s).pend ≠ s.pend → s.busy = false ∧ ∃ v, nextHostOp s = some (.wr .cmd v)) := by
  rcases hostTurn_outOfReset s with ⟨host, e⟩ | ⟨r, v, hop, e⟩
  · simp [e]
  · obtain ⟨hbusy, hwib, hcodeIn, hsrc, hstage, hpend⟩ := writeReg_changes r (hostValue v s.host) s
    rw [e]
    refine ⟨fun hne => ?busy, fun hne => ⟨r, v, hop, hwib hne⟩, fun hne => ?codeIn, fun hne => ?src, fun hne => ?stage,
      fun hne => ?pend⟩
    case busy => obtain rfl := hbusy hne; exact ⟨v, hop⟩
    case codeIn => obtain ⟨hidle, rfl⟩ := hcodeIn hne; exact ⟨hidle, v, hop⟩
    case src => obtain ⟨hidle, w, rfl⟩ := hsrc hne; exact ⟨hidle, w, v, hop⟩
    case stage => obtain ⟨hidle, w, rfl⟩ := hstage hne; exact ⟨hidle, w, v, hop⟩
    case pend => obtain ⟨hidle, rfl⟩ := hpend hne; exact ⟨hidle, v, hop⟩

end Sys2Proof.Machine
end

section
/-! ### Which command writes which register (10_state.md R41) -/

namespace Sys2Proof.Machine

variable {s t : State}

/-- RESULT, the codec and the output each have their own commands. -/
theorem exec_changes {i : Instr} (h : exec i s = .next t) :
    (t.result ≠ s.result → t.err = .ok ∧ (i = .maxchars ∨ ∃ n, i = .encode n)) ∧
    (t.cs ≠ s.cs ∨ t.csLen ≠ s.csLen → i = .loaddef ∨ ∃ n, i = .config n) ∧
    (t.dst ≠ s.dst ∨ t.dstLen ≠ s.dstLen → ¬ InertCodec s ∧ ∃ zf, i = .decode zf) := by
  cases i with
  | nop => cases (exec_nop_eq s).symm.trans h; simp
  | config n => obtain ⟨_, _, e⟩ := exec_config_frame n s; cases e.symm.trans h; simp
  | loaddef => obtain ⟨_, _, e⟩ := exec_loaddef_frame s; cases e.symm.trans h; simp
  | maxchars => cases (exec_maxchars_eq s).symm.trans h; simp
  | encode n =>
    obtain ⟨_, _, _, _, e, -, hkept, -⟩ := exec_encode_frame n s
    cases e.symm.trans h
    simpa using fun hne => not_not.1 (mt hkept hne)
  | decode zf =>
    obtain ⟨_, _, _, _, e, -⟩ := exec_decode_frame zf s
    have hinert (hcodec : InertCodec s) := (decodeOfAnInertCodecFails zf s hcodec).symm.trans h
    refine ⟨fun hne => ?_, fun hne => ?_, fun hne => ⟨fun hcodec => ?_, zf, rfl⟩⟩
    · cases e.symm.trans h; exact absurd rfl hne
    · cases e.symm.trans h; simp at hne
    · cases hinert hcodec; simp at hne

theorem commitPending_changes (h : commitPending s = .next t) :
    (t.result ≠ s.result → t.err = .ok ∧
      (decode s.pend = .instr .maxchars ∨ ∃ n, decode s.pend = .instr (.encode n))) ∧
    (t.cs ≠ s.cs ∨ t.csLen ≠ s.csLen →
      decode s.pend = .instr .loaddef ∨ ∃ n, decode s.pend = .instr (.config n)) ∧
    (t.dst ≠ s.dst ∨ t.dstLen ≠ s.dstLen → ¬ InertCodec s ∧ ∃ zf, decode s.pend = .instr (.decode zf)) := by
  unfold commitPending at h
  split at h
  case h_1 i hd => simpa only [hd, Decoded.instr.injEq] using exec_changes h
  case h_2 => cases h; simp [commitWith]

end Sys2Proof.Machine
end

section
/-! ### What a commit reads: the operands, and nothing that a commit writes first -/

namespace Sys2Proof.Machine

/-- A commit that leads from `s` to `t` reads neither the outcome, BUSY, the host nor the working registers of `s`: with
others in their places it leads to `t` too, but for the host and for working registers made of the ones put there. -/
def ReadsOperandsOnly (commit : State → Host.Outcome State Fault Refusal) (s t : State) : Prop :=
  ∃ f : Work → Work, ∀ wk e idx b host,
    commit { s with work := wk, err := e, errIdx := idx, busy := b, host := host } =
      .next { t with work := f wk, host := host }

variable {s t : State}

/-- With the working registers of `s` and another host, the commit leads to `t` with that host. -/
theorem ReadsOperandsOnly.with_host {commit : State → Host.Outcome State Fault Refusal}
    (h : ReadsOperandsOnly commit s t) (hcommit : commit s = .next t) (host : HostAgent) :
    commit { s with host := host } = .next { t with host := host } := by
  obtain ⟨f, hf⟩ := h
  have hown : t = { t with work := f s.work, host := s.host } :=
    Host.Outcome.next.inj (hcommit.symm.trans (hf s.work s.err s.errIdx s.busy s.host))
  rw [hown]
  exact hf s.work s.err s.errIdx s.busy host

theorem commitSummed_readsOperandsOnly {r : Summed} (h : commitSummed r s = .next t) :
    ReadsOperandsOnly (commitSummed r) s t := by
  refine ⟨fun wk => { wk with acc := r.acc, pos := BitVec.ofNat 4 r.pos }, fun wk e idx b host => ?_⟩
  unfold commitSummed at h ⊢
  split at h <;> cases h <;> rfl

theorem commitEmitted_readsOperandsOnly {r : Emitted} (h : commitEmitted r s = .next t) :
    ReadsOperandsOnly (commitEmitted r) s t := by
  refine ⟨fun wk => (setEmittedWork r { s with work := wk }).work, fun wk e idx b host => ?_⟩
  unfold commitEmitted at h ⊢
  split at h
  case isTrue hleft => cases h; exact if_pos hleft
  case isFalse hnone => cases h; exact if_neg hnone

theorem exec_decode_of_not_inert (zf : Bool) (h : ¬ InertCodec s) :
    exec (.decode zf) s = commitEmitted (emitted zf s) s :=
  if_neg (setLength_ne_zero_of_not_inert h)

theorem exec_readsOperandsOnly {i : Instr} (h : exec i s = .next t) : ReadsOperandsOnly (exec i) s t := by
  cases i with
  | nop => cases (exec_nop_eq s).symm.trans h; exact ⟨id, fun _ _ _ _ _ => rfl⟩
  | config n =>
    cases hn : legalLength n with
    | true =>
      cases (exec_config_of_legal s hn).symm.trans h
      exact ⟨id, fun _ _ _ _ _ => exec_config_of_legal _ hn⟩
    | false =>
      cases (exec_config_of_not_legal s hn).symm.trans h
      exact ⟨id, fun _ _ _ _ _ => exec_config_of_not_legal _ hn⟩
  | loaddef => cases (exec_loaddef_eq s).symm.trans h; exact ⟨id, fun _ _ _ _ _ => rfl⟩
  | maxchars => cases (exec_maxchars_eq s).symm.trans h; exact ⟨id, fun _ _ _ _ _ => rfl⟩
  | encode n =>
    by_cases hcodec : InertCodec s
    · cases (encodeOfAnInertCodecFails n s hcodec).symm.trans h
      exact ⟨id, fun _ _ _ _ _ => encodeOfAnInertCodecFails n _ hcodec⟩
    rw [exec_encode_of_not_inert n hcodec] at h
    split at h
    case isTrue hlong =>
      cases h
      exact ⟨id, fun _ _ _ _ _ => (exec_encode_of_not_inert n (by exact hcodec)).trans (if_pos hlong)⟩
    case isFalse hshort =>
      obtain ⟨f, hf⟩ := commitSummed_readsOperandsOnly h
      exact ⟨f, fun wk e idx b host =>
        (exec_encode_of_not_inert n (by exact hcodec)).trans ((if_neg hshort).trans (hf wk e idx b host))⟩
  | decode zf =>
    by_cases hcodec : InertCodec s
    · cases (decodeOfAnInertCodecFails zf s hcodec).symm.trans h
      exact ⟨id, fun _ _ _ _ _ => decodeOfAnInertCodecFails zf _ hcodec⟩
    · rw [exec_decode_of_not_inert zf hcodec] at h
      obtain ⟨f, hf⟩ := commitEmitted_readsOperandsOnly h
      exact ⟨f, fun wk e idx b host => (exec_decode_of_not_inert zf (by exact hcodec)).trans (hf wk e idx b host)⟩

theorem exists_commitPending_eq (s : State) : ∃ t, commitPending s = .next t := by
  obtain ⟨_, _, _, h⟩ := commitPending_commits s
  exact ⟨_, h⟩

theorem commitPending_of_decode {i : Instr} (h : decode s.pend = .instr i) : commitPending s = exec i s := by
  simp [commitPending, h]

theorem commitPending_of_illegal {why : Illegal} (h : decode s.pend = .illegal why) :
    commitPending s = .next { s with err := .illegalCmd, errIdx := 0, busy := false } :=
  commitPending_of_noCommand (noCommand_iff_illegal.2 ⟨why, h⟩)

theorem commitPending_readsOperandsOnly (h : commitPending s = .next t) : ReadsOperandsOnly commitPending s t := by
  cases hd : decode s.pend with
  | illegal why =>
    cases (commitPending_of_illegal hd).symm.trans h
    exact ⟨id, fun _ _ _ _ _ => commitPending_of_illegal hd⟩
  | instr i =>
    rw [commitPending_of_decode hd] at h
    obtain ⟨f, hf⟩ := exec_readsOperandsOnly h
    exact ⟨f, fun wk e idx b host => (commitPending_of_decode (by exact hd)).trans (hf wk e idx b host)⟩

/-- DECODE overwrites the whole output it finds. -/
theorem exec_decode_overwrites {zf : Bool} (hcodec : ¬ InertCodec s) (h : exec (.decode zf) s = .next t)
    (out : Vector Byte 16) (len : BitVec 4) : exec (.decode zf) { s with dst := out, dstLen := len } = .next t := by
  rw [exec_decode_of_not_inert zf hcodec] at h
  refine (exec_decode_of_not_inert zf (by exact hcodec)).trans ?_
  change commitEmitted (emitted zf s) _ = _
  unfold commitEmitted at h ⊢
  split at h
  case isTrue hleft => cases h; exact if_pos hleft
  case isFalse hnone => cases h; exact if_neg hnone

/-- A commit that fails writes the outcome, the working registers and the output alone, and would fail the same with
the output it has written (60_exceptions.md R172). -/
theorem exec_of_failed {i : Instr} (h : exec i s = .next t) (hfailed : t.err ≠ .ok) :
    t = { s with work := t.work, dst := t.dst, dstLen := t.dstLen, err := t.err, errIdx := t.errIdx, busy := false } ∧
    exec i { s with dst := t.dst, dstLen := t.dstLen } = .next t := by
  rcases exec_succeeds_or_uses_codec h with ⟨n, rfl⟩ | ⟨zf, rfl⟩ | ⟨hok, -⟩
  · obtain ⟨_, _, _, _, e, -, hkept, -⟩ := exec_encode_frame n s
    cases e.symm.trans h
    obtain rfl := hkept hfailed
    exact ⟨rfl, h⟩
  · by_cases hcodec : InertCodec s
    · cases (decodeOfAnInertCodecFails zf s hcodec).symm.trans h
      exact ⟨rfl, h⟩
    · refine ⟨?_, exec_decode_overwrites hcodec h _ _⟩
      obtain ⟨_, _, _, _, e, -⟩ := exec_decode_frame zf s
      cases e.symm.trans h
      rfl
  · exact absurd hok hfailed

end Sys2Proof.Machine
end

section
/-! ### One operation of the host, out of reset (30_encoding.md R91) -/

namespace Sys2Proof.Machine

variable {s : State}

theorem hostTurn_of_noOp (h : nextHostOp s = none) : hostTurn false s = s := by
  simp [hostTurn, h]

theorem hostTurn_wr {r : Reg} {v : HostValue} (h : nextHostOp s = some (.wr r v)) :
    hostTurn false s = goTo (s.host.place + 1) (writeReg r (hostValue v s.host) s) := by
  simp [hostTurn, h, hostOp]

theorem hostTurn_and {k j : Fin 8} {v : HostValue} (h : nextHostOp s = some (.and k j v)) :
    hostTurn false s = setTemp k (s.host.temps[j] &&& hostValue v s.host) s := by
  simp [hostTurn, h, hostOp]

theorem hostTurn_bnz {k : Fin 8} {p : Nat} (h : nextHostOp s = some (.bnz k p)) :
    hostTurn false s = goTo (if s.host.temps[k] ≠ 0 then p else s.host.place + 1) s := by
  simp [hostTurn, h, hostOp]

/-- A write of the host reaches the block alone. -/
@[simp] theorem writeReg_host (r : Reg) (v : Word) (s : State) : (writeReg r v s).host = s.host := by
  rcases writeReg_cases r v s with e | ⟨-, -, e⟩ | ⟨-, -, e⟩ | ⟨-, -, e⟩ | ⟨-, w, -, e⟩ | ⟨-, w, -, e⟩ <;> simp [e]

theorem goTo_writeReg (p : Nat) (r : Reg) (v : Word) (s : State) :
    goTo p (writeReg r v s) = { writeReg r v s with host := { s.host with place := p } } := by
  rw [goTo, writeReg_host]

end Sys2Proof.Machine
end

section
/-! ### The working registers are hidden (10_state.md R39) -/

namespace Sys2Proof.Machine

variable (s : State) (wk : Work)

theorem readReg_work (r : Reg) : readReg r { s with work := wk } = readReg r s := by
  cases r <;> rfl

theorem writeReg_work (r : Reg) (v : Word) :
    writeReg r v { s with work := wk } = { writeReg r v s with work := wk } := by
  rcases Bool.eq_false_or_eq_true s.busy with hbusy | hidle
  · rw [writeReg_busy r v hbusy, writeReg_busy (s := { s with work := wk }) r v hbusy]
    split <;> rfl
  · rw [writeReg_idle r v hidle, writeReg_idle (s := { s with work := wk }) r v hidle]
    cases r <;> rfl

theorem hostTurn_work : hostTurn false { s with work := wk } = { hostTurn false s with work := wk } := by
  cases hop : nextHostOp s with
  | none => rw [hostTurn_of_noOp hop, hostTurn_of_noOp (s := { s with work := wk }) hop]
  | some op =>
    cases op with
    | wr r v =>
      rw [hostTurn_wr hop, hostTurn_wr (s := { s with work := wk }) hop, writeReg_work]
      rfl
    | rd k r =>
      rw [hostTurn_rd hop, hostTurn_rd (s := { s with work := wk }) hop, readReg_work]
      rfl
    | and k j v =>
      rw [hostTurn_and hop, hostTurn_and (s := { s with work := wk }) hop]
      rfl
    | bnz k target =>
      rw [hostTurn_bnz hop, hostTurn_bnz (s := { s with work := wk }) hop]
      rfl

end Sys2Proof.Machine
end

section
/-! ### The statements on every step -/

namespace Sys2Proof.Machine

/-- Settles O46, by the three parts of the invariant. -/
theorem invariantHoldsAfterReset : Obligations.InvariantHoldsAfterReset :=
  inv_iff.2 ⟨codecLegal_zeroBytes, outputPadded_zeroBytes, outcomeLegal_zero (by decide)⟩

/-- Settles O47: a cycle of reset establishes the invariant, a commit keeps it, and the host's turn writes no register
that it speaks of. -/
theorem everyStepKeepsTheInvariant : Obligations.EveryStepKeepsTheInvariant := by
  intro s t hs h
  rcases step_cases s with ⟨-, e⟩ | ⟨-, -, e⟩ | ⟨-, -, e⟩
  · cases e.symm.trans h
    obtain ⟨host, hturn⟩ := hostTurn_inReset (resetBlock (takeSample s))
    rw [hturn]
    exact (resetBlock_inv (takeSample s)).of_same rfl rfl rfl rfl rfl rfl
  · have hsample : (takeSample s).Inv := hs.of_same rfl rfl rfl rfl rfl rfl
    exact commitPending_inv hsample (e.symm.trans h)
  · cases e.symm.trans h
    rw [hostTurn_onlyHostWrites (tick (takeSample s))]
    exact hs.of_same rfl rfl rfl rfl rfl rfl

/-- Settles O44, from the step of a commit. -/
theorem stepRunsTheDecodedCommand : Obligations.StepRunsTheDecodedCommand := fun s _ hnext hd =>
  (step_of_commitsNext hnext).trans (commitPending_of_decode (s := takeSample s) hd)

/-- Settles O45: a commit has a next state whatever PEND holds, and the other two kinds of step are next states. -/
theorem everyStepHasANextState : Obligations.EveryStepHasANextState := by
  intro s
  rcases step_cases s with ⟨-, e⟩ | ⟨-, -, e⟩ | ⟨-, -, e⟩
  · exact ⟨_, e⟩
  · obtain ⟨t, hcommit⟩ := exists_commitPending_eq (takeSample s)
    exact ⟨t, e.trans hcommit⟩
  · exact ⟨_, e⟩

/-- Settles O48, from the frames of a commit, of the host's turn, and of the host's turn while BUSY. -/
theorem hostAndEngineKeepToTheirRegisters : Obligations.HostAndEngineKeepToTheirRegisters := by
  intro s t h
  refine ⟨fun hnext => ?commit, fun hturn => ?turn⟩
  case commit =>
    have hframe : OnlyCommitWrites (takeSample s) t :=
      commitPending_onlyCommitWrites ((step_of_commitsNext hnext).symm.trans h)
    obtain ⟨hcodeIn, hsrc, hstage, hpend, hwib, hhost⟩ := hframe.keeps
    exact ⟨hcodeIn, hsrc, hstage, hpend, hwib, hhost, hframe.busy⟩
  case turn =>
    cases (step_of_hostsTurn hturn).symm.trans h
    obtain ⟨herr, hidx, hresult, hdst, hdstLen, hcs, hcsLen, hwork⟩ :=
      (hostTurn_onlyHostWrites (tick (takeSample s))).keeps
    refine ⟨herr, hidx, hresult, hdst, hdstLen, hcs, hcsLen, hwork, fun hbusy => ?_⟩
    obtain ⟨wib, host, e⟩ := hostTurn_of_busy (s := tick (takeSample s)) hbusy
    rw [e]
    exact ⟨hbusy, rfl, rfl, rfl, rfl⟩

/-- Settles O49: a commit leaves the host's registers, the host's turn leaves the engine's, and each writes its own only
at the command or the host write that the rules name. -/
theorem registersChangeOnlyWhereTheRulesSay : Obligations.RegistersChangeOnlyWhereTheRulesSay := by
  intro s t h hhigh
  have hkept := hostAndEngineKeepToTheirRegisters s t h
  rcases step_outOfReset_cases hhigh h with ⟨hnext, hcommit⟩ | ⟨hturn, rfl⟩
  · obtain ⟨hcodeIn, hsrc, hstage, hpend, hwib, -, hbusy⟩ := hkept.1 hnext
    obtain ⟨hresult, hcodec, hout⟩ := commitPending_changes hcommit
    exact ⟨fun _ _ => hnext, fun _ hrise => absurd hrise (by simp [hbusy]), fun hne => absurd hwib hne,
      fun _ => hnext, fun hne => ⟨hnext, hresult hne⟩, fun hne => ⟨hnext, hcodec hne⟩, fun hne => ⟨hnext, hout hne⟩,
      fun hne => absurd hcodeIn hne, fun hne => absurd hsrc hne, fun hne => absurd hstage hne,
      fun hne => absurd hpend hne⟩
  · obtain ⟨herr, hidx, hresult, hdst, hdstLen, hcs, hcsLen, -, hwhileBusy⟩ := hkept.2 hturn
    obtain ⟨hbusy, hwib, hcodeIn, hsrc, hstage, hpend⟩ := hostTurn_changes (tick (takeSample s))
    refine ⟨fun hs hfalls => ?falls, fun hs hrises => ⟨hturn, hbusy ?rises⟩, fun hne => ⟨hturn, hwib hne⟩,
      fun hne => absurd hne ?err, fun hne => absurd hresult hne, fun hne => absurd hne ?codec,
      fun hne => absurd hne ?out, fun hne => ⟨hturn, hcodeIn hne⟩, fun hne => ⟨hturn, hsrc hne⟩,
      fun hne => ⟨hturn, hstage hne⟩, fun hne => ⟨hturn, hpend hne⟩⟩
    case falls =>
      obtain ⟨hstays, -⟩ := hwhileBusy hs
      exact absurd hfalls (by simp [hstays])
    case rises => simp [hrises, hs]
    case err => simp [herr, hidx]
    case codec => simp [hcs, hcsLen]
    case out => simp [hdst, hdstLen]

/-- Settles O50: what a failed commit has written is no operand, or is overwritten again. -/
theorem aFailedCommandFailsAgain : Obligations.AFailedCommandFailsAgain := by
  intro s t h hfailed
  cases hd : decode s.pend with
  | illegal why =>
    cases (commitPending_of_illegal hd).symm.trans h
    exact ⟨s.work, commitPending_of_illegal hd⟩
  | instr i =>
    rw [commitPending_of_decode hd] at h
    obtain ⟨hframe, hagain⟩ := exec_of_failed h hfailed
    obtain ⟨f, hf⟩ := exec_readsOperandsOnly hagain
    obtain ⟨-, -, -, hpend, -, hhost⟩ := (exec_onlyCommitWrites h).keeps
    refine ⟨f t.work, (commitPending_of_decode (s := { t with busy := true }) (hpend ▸ hd)).trans ?_⟩
    have hreissued : { t with busy := true } = { s with
        dst := t.dst, dstLen := t.dstLen, work := t.work, err := t.err, errIdx := t.errIdx, busy := true } :=
      congrArg (fun u : State => { u with busy := true }) hframe
    rw [hreissued]
    exact (hf t.work t.err t.errIdx true s.host).trans (by rw [← hhost])

/-- Settles O54: a cycle of reset overwrites the working registers, a commit and the host's turn read none of them. -/
theorem workingRegistersAreNeverSeen : Obligations.WorkingRegistersAreNeverSeen := by
  intro s t wk h
  refine ⟨?_, fun r => by rw [memRead_regIndex, memRead_regIndex, readReg_work]⟩
  rcases step_cases s with ⟨hlow, e⟩ | ⟨hhigh, hdue, e⟩ | ⟨hhigh, hdue, e⟩
  · refine ⟨t.work, (step_of_resetLow (s := { s with work := wk }) hlow).trans ?_⟩
    exact e.symm.trans h
  · obtain ⟨f, hf⟩ := commitPending_readsOperandsOnly (e.symm.trans h)
    obtain ⟨-, -, -, -, -, hhost⟩ := (commitPending_onlyCommitWrites (e.symm.trans h)).keeps
    refine ⟨f wk, (step_of_commitsNext (s := { s with work := wk }) ⟨hhigh, hdue⟩).trans ?_⟩
    exact (hf wk s.err s.errIdx s.busy s.host).trans (by rw [hhost, takeSample_host])
  · cases e.symm.trans h
    refine ⟨wk, (step_of_hostsTurn (s := { s with work := wk }) ⟨hhigh, hdue⟩).trans ?_⟩
    exact congrArg Host.Outcome.next (hostTurn_work (tick (takeSample s)) wk)

end Sys2Proof.Machine
end

/-! ## Latency, the host's operations and the end of a run (70_reset_and_hazards.md): the layer of facts, then the
statements -/

section
/-! ### The step where rst_n stays high -/

namespace Sys2Proof.Machine

variable {s : State}

theorem mem_take_of_mem_take_drop {i k : Nat} {samples : List Bool} {high : Bool}
    (h : high ∈ (samples.drop i).take k) : high ∈ samples.take (i + k) := by
  rw [List.take_drop] at h
  exact List.mem_of_mem_drop h

/-- The coming sample of rst_n is high exactly when no low one heads the list. -/
theorem resetIsLow_eq_false_iff : resetIsLow s = false ↔ ∀ high ∈ s.rstN.take 1, high = true := by
  unfold resetIsLow
  cases s.rstN <;> simp

theorem resetIsLow_of_nil (h : s.rstN = []) : resetIsLow s = false := by
  simp [resetIsLow, h]

theorem takeSample_of_nil (h : s.rstN = []) : takeSample s = s := by
  obtain ⟨⟩ := s
  cases h
  rfl

theorem tick_of_idle (h : s.busy = false) : tick s = s := by
  obtain ⟨⟩ := s
  cases h
  rfl

theorem commitsNext_iff : CommitsNext s ↔ resetIsLow s = false ∧ s.busy = true ∧ s.wait = 0 := by
  simp [CommitsNext, commitIsDue]

/-- The latency has passed, and no reset is to come. -/
theorem step_of_due (hbusy : s.busy = true) (hwait : s.wait = 0) (hnil : s.rstN = []) : step s = commitPending s := by
  rw [step_of_commitsNext (commitsNext_iff.2 ⟨resetIsLow_of_nil hnil, hbusy, hwait⟩), takeSample_of_nil hnil]

theorem hostsTurn_of_idle (hhigh : resetIsLow s = false) (h : s.busy = false) : HostsTurn s :=
  ⟨hhigh, by simp [commitIsDue, h]⟩

theorem hostsTurn_of_waiting (hhigh : resetIsLow s = false) (h : s.wait ≠ 0) : HostsTurn s :=
  ⟨hhigh, by simp [commitIsDue, h]⟩

/-- An idle block takes no note of time: only the host goes on. -/
theorem step_of_idle (h : s.busy = false) (hnil : s.rstN = []) : step s = .next (hostTurn false s) := by
  rw [step_of_hostsTurn (hostsTurn_of_idle (resetIsLow_of_nil hnil) h), takeSample_of_nil hnil, tick_of_idle h]

/-- While the latency runs, one step of it passes and the host goes on. -/
theorem step_of_waiting (hbusy : s.busy = true) (hwait : s.wait ≠ 0) (hhigh : resetIsLow s = false) :
    step s = .next (hostTurn false { s with wait := s.wait - 1, rstN := s.rstN.tail }) := by
  rw [step_of_hostsTurn (hostsTurn_of_waiting hhigh hwait)]
  simp [tick, takeSample, hbusy]

theorem step_of_waiting_nil (hbusy : s.busy = true) (hwait : s.wait ≠ 0) (hnil : s.rstN = []) :
    step s = .next (hostTurn false { s with wait := s.wait - 1 }) := by
  rw [step_of_waiting hbusy hwait (resetIsLow_of_nil hnil), hnil, List.tail_nil, ← hnil]

/-- The same with a write of the host as the only thing that can leave a trace: WIB. -/
theorem step_of_waiting_frame (hbusy : s.busy = true) (hwait : s.wait ≠ 0) (hhigh : resetIsLow s = false) :
    ∃ wib host, step s = .next { s with wib := wib, wait := s.wait - 1, rstN := s.rstN.tail, host := host } := by
  obtain ⟨wib, host, h⟩ := hostTurn_of_busy (s := { s with wait := s.wait - 1, rstN := s.rstN.tail }) hbusy
  exact ⟨wib, host, (step_of_waiting hbusy hwait hhigh).trans (congrArg _ h)⟩

/-- `k` steps of the latency, where the next `k` samples of rst_n are high. -/
theorem afterSteps_of_waiting {k : Nat} (hbusy : s.busy = true) (hwait : k ≤ s.wait)
    (hhigh : ∀ high ∈ s.rstN.take k, high = true) : ∃ wib host,
      AfterSteps k s { s with wib := wib, wait := s.wait - k, rstN := s.rstN.drop k, host := host } := by
  induction k generalizing s with
  | zero => exact ⟨s.wib, s.host, rfl⟩
  | succ k ih =>
    have hfirst : resetIsLow s = false := resetIsLow_eq_false_iff.2 fun high hmem =>
      hhigh high (List.mem_of_mem_take (i := 1) (by rwa [List.take_take, Nat.min_eq_left (by omega)]))
    obtain ⟨wib, host, hstep⟩ := step_of_waiting_frame hbusy (by omega) hfirst
    obtain ⟨wib', host', hrest⟩ :=
      ih (s := { s with wib := wib, wait := s.wait - 1, rstN := s.rstN.tail, host := host }) hbusy
        (Nat.le_sub_one_of_lt hwait) fun high hmem => hhigh high (by
          rw [Nat.add_comm k 1]
          exact mem_take_of_mem_take_drop (by rwa [List.drop_one]))
    refine ⟨wib', host', _, hstep, ?_⟩
    convert hrest using 2 <;> simp [Nat.sub_sub, Nat.add_comm]

end Sys2Proof.Machine
end

section
/-! ### The WAIT loop (30_encoding.md R92) -/

namespace Sys2Proof.Machine

/-- The operations of a WAIT at place `p` of a program. -/
structure HasWaitAt (p : Nat) (program : List HostOp) : Prop where
  read : program[p]? = some (.rd 7 .status)
  mask : program[p + 1]? = some (.and 7 7 (.imm 1))
  branch : program[p + 2]? = some (.bnz 7 p)

/-- The host is in the WAIT at place `p`, with so many operations to do before it reads STATUS again: it is about to
read, or it has masked a STATUS with BUSY = 1, or it has read one. -/
def Polling (p : Nat) (host : HostAgent) : Nat → Prop
  | 0 => host.place = p
  | 1 => host.place = p + 2 ∧ host.temps[7] ≠ 0
  | 2 => host.place = p + 1 ∧ host.temps[7] &&& 1 ≠ 0
  | _ => False

/-- BUSY is bit 0 of STATUS, which the mask of a WAIT keeps. -/
theorem statusWord_and_one (s : State) : statusWord s &&& 1#32 = if s.busy then 1 else 0 := by
  have hbit : statusWord s &&& 1#32 = (BitVec.ofBool s.busy).setWidth 32 := by
    rw [← statusWord_busy s]
    exact BitVec.and_one_eq_setWidth_ofBool_getLsbD
  rw [hbit]
  cases s.busy <;> rfl

section
variable {p left : Nat} {s : State} (hwait : HasWaitAt p s.host.program)
include hwait

theorem hostTurn_waitRead (hplace : s.host.place = p) : hostTurn false s = setTemp 7 (statusWord s) s :=
  hostTurn_rd (by rw [nextHostOp, hplace, hwait.read])

theorem hostTurn_waitMask (hplace : s.host.place = p + 1) :
    hostTurn false s = setTemp 7 (s.host.temps[7] &&& 1) s :=
  hostTurn_and (by rw [nextHostOp, hplace, hwait.mask])

theorem hostTurn_waitBranch (hplace : s.host.place = p + 2) :
    hostTurn false s = goTo (if s.host.temps[7] ≠ 0 then p else p + 3) s := by
  rw [hostTurn_bnz (k := 7) (p := p) (by rw [nextHostOp, hplace, hwait.branch]), hplace]
  rfl

/-- Once it has read BUSY = 1 the host goes back to its read, whatever has become of BUSY. -/
theorem hostTurn_polling_succ (h : Polling p s.host (left + 1)) : ∃ host,
    hostTurn false s = { s with host := host } ∧ host.program = s.host.program ∧ Polling p host left := by
  match left, h with
  | 0, ⟨hplace, htemp⟩ =>
    rw [hostTurn_waitBranch hwait hplace, if_pos htemp]
    exact ⟨_, rfl, rfl, rfl⟩
  | 1, ⟨hplace, htemp⟩ =>
    rw [hostTurn_waitMask hwait hplace]
    refine ⟨_, rfl, rfl, ?_, ?_⟩
    · exact congrArg (· + 1) hplace
    · simpa using htemp

/-- While BUSY the host never leaves its WAIT. -/
theorem hostTurn_polling (hbusy : s.busy = true) (h : Polling p s.host left) : ∃ host left',
    hostTurn false s = { s with host := host } ∧ host.program = s.host.program ∧ Polling p host left' := by
  cases left with
  | zero =>
    rw [hostTurn_waitRead hwait h]
    refine ⟨_, 2, rfl, rfl, ?_, ?_⟩
    · exact congrArg (· + 1) h
    · simp [statusWord_and_one, hbusy]
  | succ left =>
    obtain ⟨host, hturn, hprogram, hpolling⟩ := hostTurn_polling_succ hwait h
    exact ⟨host, left, hturn, hprogram, hpolling⟩

variable (hnil : s.rstN = [])
include hnil

/-- The host polls until the latency has passed. -/
theorem afterSteps_polling (hbusy : s.busy = true) (h : Polling p s.host left) : ∃ host left',
    AfterSteps s.wait s { s with wait := 0, host := host } ∧ host.program = s.host.program ∧ Polling p host left' := by
  generalize hn : s.wait = n
  induction n generalizing s left with
  | zero => exact ⟨s.host, left, by change s = _; rw [← hn], rfl, h⟩
  | succ n ih =>
    obtain ⟨host, left', hturn, hprogram, hpolling⟩ := hostTurn_polling (s := { s with wait := n }) hwait hbusy h
    obtain ⟨host', left'', hrest, hprogram', hpolling'⟩ :=
      ih (s := { s with wait := n, host := host }) (by exact hprogram ▸ hwait) hnil hbusy hpolling rfl
    have hstep := step_of_waiting_nil hbusy (by omega) hnil
    rw [hn, Nat.add_sub_cancel, hturn] at hstep
    exact ⟨host', left'', ⟨_, hstep, hrest⟩, hprogram'.trans hprogram, hpolling'⟩

/-- Once the command has committed, the host comes back to its read. -/
theorem afterSteps_toRead (hidle : s.busy = false) (h : Polling p s.host left) : ∃ host,
    AfterSteps left s { s with host := host } ∧ host.program = s.host.program ∧ host.place = p := by
  induction left generalizing s with
  | zero => exact ⟨s.host, rfl, rfl, h⟩
  | succ left ih =>
    obtain ⟨host, hturn, hprogram, hpolling⟩ := hostTurn_polling_succ hwait h
    obtain ⟨host', hrest, hprogram', hplace⟩ :=
      ih (s := { s with host := host }) (by exact hprogram ▸ hwait) hnil hidle hpolling
    exact ⟨host', ⟨_, (step_of_idle hidle hnil).trans (congrArg _ hturn), hrest⟩, hprogram'.trans hprogram, hplace⟩

/-- A read of BUSY = 0 ends the WAIT. -/
theorem afterSteps_waitExit (hidle : s.busy = false) (hplace : s.host.place = p) : ∃ host,
    AfterSteps 3 s { s with host := host } ∧ host.program = s.host.program ∧ host.place = p + 3 := by
  have hmask := hostTurn_waitMask (s := setTemp 7 (statusWord s) s) hwait (congrArg (· + 1) hplace)
  have hbranch := hostTurn_waitBranch (s := setTemp 7 0 (setTemp 7 (statusWord s) s)) hwait
    (congrArg (· + 2) hplace)
  have hzero : (setTemp 7 (statusWord s) s).host.temps[7] &&& 1 = 0 := by simp [statusWord_and_one, hidle]
  rw [hzero] at hmask
  rw [if_neg (by simp)] at hbranch
  have hreadStep := (step_of_idle hidle hnil).trans (congrArg _ (hostTurn_waitRead hwait hplace))
  have hmaskStep := (step_of_idle (s := setTemp 7 (statusWord s) s) hidle hnil).trans (congrArg _ hmask)
  have hbranchStep := (step_of_idle (s := setTemp 7 0 (setTemp 7 (statusWord s) s)) hidle hnil).trans
    (congrArg _ hbranch)
  exact ⟨(goTo (p + 3) (setTemp 7 0 (setTemp 7 (statusWord s) s))).host,
    ⟨_, hreadStep, _, hmaskStep, _, hbranchStep, rfl⟩, rfl, rfl⟩

theorem afterSteps_waitDone (hidle : s.busy = false) (h : Polling p s.host left) : ∃ host,
    AfterSteps (left + 3) s { s with host := host } ∧ host.program = s.host.program ∧ host.place = p + 3 := by
  obtain ⟨host, hback, hprogram, hplace⟩ := afterSteps_toRead hwait hnil hidle h
  obtain ⟨host', hexit, hprogram', hplace'⟩ :=
    afterSteps_waitExit (s := { s with host := host }) (by exact hprogram ▸ hwait) hnil hidle hplace
  exact ⟨host', hback.trans hexit, hprogram'.trans hprogram, hplace'⟩

end

end Sys2Proof.Machine
end

section
/-! ### The statements of 70_reset_and_hazards.md and on the host's operations -/

namespace Sys2Proof.Machine

/-- Settles O16, operation by operation of the host's turn. -/
theorem hostOperationsDoWhatTheNotationSays : Obligations.HostOperationsDoWhatTheNotationSays := by
  refine ⟨fun _ _ => rfl, fun _ _ => rfl, fun s hturn => ?_⟩
  rw [step_of_hostsTurn hturn]
  refine ⟨fun r v hop => ⟨_, rfl, ?wr⟩, fun k j v hop => ?and, fun k p hop => ?bnz⟩
  case wr =>
    rw [hostTurn_wr (s := tick (takeSample s)) hop, memWrite_regIndex, goTo_writeReg]
    rfl
  case and => exact congrArg _ (hostTurn_and (s := tick (takeSample s)) hop)
  case bnz => exact congrArg _ (hostTurn_bnz (s := tick (takeSample s)) hop)

/-- Settles O51: the latency passes step by step, and then the commit has a next state. -/
theorem everyAcceptedCommandCommits : Obligations.EveryAcceptedCommandCommits := by
  intro s hbusy hhigh
  obtain ⟨wib, host, hrun⟩ := afterSteps_of_waiting hbusy le_rfl fun high hmem => hhigh high
    (List.mem_of_mem_take (i := s.wait) (by rwa [List.take_take, Nat.min_eq_left (Nat.le_succ _)]))
  rw [Nat.sub_self] at hrun
  have hnext : CommitsNext { s with wib := wib, wait := 0, rstN := s.rstN.drop s.wait, host := host } :=
    commitsNext_iff.2
      ⟨resetIsLow_eq_false_iff.2 fun high hmem => hhigh high (mem_take_of_mem_take_drop hmem), hbusy, rfl⟩
  have hstep := step_of_commitsNext hnext
  obtain ⟨t, ht⟩ := everyStepHasANextState { s with wib := wib, wait := 0, rstN := s.rstN.drop s.wait, host := host }
  exact ⟨_, t, hrun, rfl, hnext, hstep, ht, (commitPending_onlyCommitWrites (hstep.symm.trans ht)).busy⟩

/-- Settles O52: the host polls until the latency has passed, the command commits, which the host has no part in, and
the host's next read of STATUS ends the loop. -/
theorem waitLoopsEnd : Obligations.WaitLoopsEnd := by
  intro s p hbusy hnil hplace hread hmask hbranch
  have hwait : HasWaitAt p s.host.program := ⟨hread, hmask, hbranch⟩
  obtain ⟨host, left, hpoll, hprogram, hpolling⟩ := afterSteps_polling (left := 0) hwait hnil hbusy hplace
  obtain ⟨c, hc⟩ := exists_commitPending_eq { s with wait := 0 }
  have hframe := commitPending_onlyCommitWrites hc
  have hnil' : c.rstN = [] := by simp [hframe.rstN, hnil]
  have hcommit : step { s with wait := 0, host := host } = .next { c with host := host } := by
    rw [step_of_due (s := { s with wait := 0, host := host }) hbusy rfl hnil]
    exact (commitPending_readsOperandsOnly hc).with_host hc host
  obtain ⟨host', hdone, hprogram', hplace'⟩ :=
    afterSteps_waitDone (s := { c with host := host }) (by exact hprogram ▸ hwait) hnil' hframe.busy hpolling
  exact ⟨s.wait + (left + 3 + 1), c, { c with host := host' }, hc, hpoll.trans ⟨_, hcommit, hdone⟩, rfl,
    hframe.busy, hplace', hprogram'.trans hprogram⟩

/-- Settles O53: the write is the host's next operation, before the commit or after it. -/
theorem anUnwaitedWriteHasBothOutcomes : Obligations.AnUnwaitedWriteHasBothOutcomes := by
  intro s r v hbusy hnil hr hop
  refine ⟨fun hwait => ?dropped, fun hwait => ?performed⟩
  case dropped =>
    rw [step_of_waiting_nil hbusy hwait hnil, hostTurn_wr (s := { s with wait := s.wait - 1 }) hop,
      writeReg_busy (s := { s with wait := s.wait - 1 }) r _ hbusy, if_pos hr]
    rfl
  case performed =>
    obtain ⟨c, hc⟩ := exists_commitPending_eq s
    have hframe := commitPending_onlyCommitWrites hc
    obtain ⟨-, -, -, -, -, hhost⟩ := hframe.keeps
    have hnil' : c.rstN = [] := by simp [hframe.rstN, hnil]
    refine ⟨c, (step_of_due hbusy hwait hnil).trans hc, hframe.busy, ?_⟩
    have hop' : nextHostOp c = some (.wr r (.imm v)) := by rw [nextHostOp, hhost]; exact hop
    rw [step_of_idle hframe.busy hnil', hostTurn_wr hop', memWrite_regIndex, goTo_writeReg, hhost]
    rfl

/-- Settles O55: neither the block nor the host has anything left to do. -/
theorem anIdleBlockKeepsItsState : Obligations.AnIdleBlockKeepsItsState := by
  rintro s ⟨hover, hidle⟩ hnil
  rw [step_of_idle hidle hnil, hostTurn_of_noOp hover]

end Sys2Proof.Machine
end
